-- ==== Sys2Proof/Word.lean ====
section
/-!
DEFINITION. The one data width of the block: `Byte` (00_scope.md R12). No value wider than a byte crosses the bus (R49),
no value is signed (R11), and the arithmetic on bytes is R176's list: bitwise operations, a nibble, one shift and an
unsigned comparison, all of which are BitVec's own.
-/

namespace Sys2Proof

/-- R12: a `Byte` is 8 bits, unsigned. -/
abbrev Byte := BitVec 8

end Sys2Proof
end

