-- ==== Sys2Proof/Syntax.lean ====
section
/-!
DEFINITION. The instructions of the block: the host operations of 30_encoding.md R78, one constructor for each row of
spec/opcode_table.json, and the pseudo-instruction LCDBOOT of R84 (entry 9).
-/

namespace Sys2Proof

/-- R3, R78: a host operation with its operands. A blob is its bytes; its u16 length is their number (R86 `BlobLen`). -/
inductive Instr
  /-- R94: configure the expander, load the shadows, arm the notifier -/
  | init
  /-- R108: one instruction byte, RS = 0 -/
  | instr (b : Byte)
  /-- R108: one character byte, RS = 1 -/
  | data (b : Byte)
  /-- R109: a sequence of instruction bytes -/
  | instrs (bs : List Byte)
  /-- R109: a sequence of character bytes -/
  | datas (bs : List Byte)
  /-- R110: INSTR CMD_CLEAR -/
  | clear
  /-- R111: INSTR CMD_HOME -/
  | home
  /-- R119: set the backlight colour -/
  | backlight (color : Byte)
  /-- R112: define a custom character -/
  | createchar (slot : Byte) (pat : List Byte)
  /-- R113: write up to two lines of text -/
  | text (t : List Byte)
  /-- R113: clear, then write up to two lines of text -/
  | textc (t : List Byte)
  /-- R122: sample the five buttons -/
  | sample
  /-- R123: the name of a single-button mask -/
  | name (mask : Byte)
  /-- R127: one step of the notifier -/
  | tick
  /-- R132: close the notifier -/
  | close
  /-- R84: the pseudo-instruction that expands to eight INSTRs -/
  | lcdboot
deriving DecidableEq, Repr

end Sys2Proof
end

