-- ==== Sys2Proof/WellFormed.lean ====
section
/-!
DEFINITION. The checks of 30_encoding.md R86 that an instruction must pass to have an encoding. `PatternLen` and `SlotRange` are
no checks of form: R86 makes them run-time errors of CREATECHAR.
-/

namespace Sys2Proof

/-- R86 `BlobLen`, R78: the length of a blob is a u16. -/
def blobLenOk (bs : List Byte) : Bool := bs.length < 65536

/-- R86: the instruction's operands pass the checks of form. Byte operands are in range by their type. -/
def Instr.wf : Instr → Bool
  | .instrs bs => blobLenOk bs
  | .datas bs => blobLenOk bs
  | .createchar _ pat => blobLenOk pat
  | .text t => blobLenOk t
  | .textc t => blobLenOk t
  | .init => true
  | .instr _ => true
  | .data _ => true
  | .clear => true
  | .home => true
  | .backlight _ => true
  | .sample => true
  | .name _ => true
  | .tick => true
  | .close => true
  | .lcdboot => true

end Sys2Proof
end

