-- ==== Sys2Proof/Decode.lean ====
section
/-!
DEFINITION. The host-operation encoding of 30_encoding.md R78 to R80: a total decoder that refuses by name, the encoder written
from the same table, and the layout of an opcode-table word as bytes. The bytes of a stream are in the order the host issues them.
-/

namespace Sys2Proof

/-- R80: the two refusals of the decoder, each with the offset it names. -/
inductive DecodeError
  /-- the opcode byte `op`, at `offset`, is not in the table of R78 -/
  | reservedOpcode (op : Byte) (offset : Nat)
  /-- the stream ends, at `offset`, inside an operand -/
  | truncated (offset : Nat)
deriving DecidableEq, Repr

/-! ### The eight INSTRs of LCDBOOT -/

/-- R84: the operand bytes of the eight INSTRs that LCDBOOT expands to. -/
def lcdbootBytes : List Byte := [0x33, 0x32, 0x28, 0x01, 0x14, 0x06, 0x0C, 0x02]

/-- R84: the core operations an instruction stands for: itself, or the eight INSTRs of LCDBOOT. -/
def Instr.expand : Instr → List Instr
  | .lcdboot => lcdbootBytes.map .instr
  | i => [i]

/-- The instruction has an opcode of its own (every one but the pseudo-instruction LCDBOOT). -/
def Instr.isCore : Instr → Bool
  | .lcdboot => false
  | _ => true

/-! ### Decoding -/

/-- R79: one operand byte; `stop` is the offset at which the stream ends. -/
def readByte (stop : Nat) : List Byte → Except DecodeError (Byte × List Byte)
  | [] => .error (.truncated stop)
  | b :: rest => .ok (b, rest)

/-- R78: a blob: a 2-byte big-endian length n, then n bytes. -/
def readBlob (stop : Nat) : List Byte → Except DecodeError (List Byte × List Byte)
  | hi :: lo :: rest =>
    if hi.toNat * 256 + lo.toNat ≤ rest.length then
      .ok (rest.take (hi.toNat * 256 + lo.toNat), rest.drop (hi.toNat * 256 + lo.toNat))
    else .error (.truncated stop)
  | _ => .error (.truncated stop)

/-- An operation with one byte operand. -/
def readOpByte (f : Byte → Instr) (stop : Nat) (rest : List Byte) : Except DecodeError (Instr × List Byte) :=
  match readByte stop rest with
  | .ok (b, r) => .ok (f b, r)
  | .error e => .error e

/-- An operation with one blob operand. -/
def readOpBlob (f : List Byte → Instr) (stop : Nat) (rest : List Byte) : Except DecodeError (Instr × List Byte) :=
  match readBlob stop rest with
  | .ok (bs, r) => .ok (f bs, r)
  | .error e => .error e

/-- An operation with one byte operand and then one blob operand. -/
def readOpByteBlob (f : Byte → List Byte → Instr) (stop : Nat) (rest : List Byte) :
    Except DecodeError (Instr × List Byte) :=
  match readByte stop rest with
  | .ok (b, r) => readOpBlob (f b) stop r
  | .error e => .error e

/-- R79: the opcode alone fixes the operand layout. `offset` is the offset of the opcode byte, `stop` of the stream's end. -/
def decodeOperands (offset stop : Nat) (op : Byte) (rest : List Byte) : Except DecodeError (Instr × List Byte) :=
  if op = 0x10 then .ok (.init, rest)
  else if op = 0x20 then readOpByte .instr stop rest
  else if op = 0x21 then readOpByte .data stop rest
  else if op = 0x22 then readOpBlob .instrs stop rest
  else if op = 0x23 then readOpBlob .datas stop rest
  else if op = 0x30 then .ok (.clear, rest)
  else if op = 0x31 then .ok (.home, rest)
  else if op = 0x40 then readOpByte .backlight stop rest
  else if op = 0x50 then readOpByteBlob .createchar stop rest
  else if op = 0x60 then readOpBlob .text stop rest
  else if op = 0x61 then readOpBlob .textc stop rest
  else if op = 0x70 then .ok (.sample, rest)
  else if op = 0x71 then readOpByte .name stop rest
  else if op = 0x80 then .ok (.tick, rest)
  else if op = 0x81 then .ok (.close, rest)
  else .error (.reservedOpcode op offset)

/-- R79, R80: the first operation of a byte string that starts at `offset` of its stream, and the bytes after it. -/
def decodeOne (offset : Nat) : List Byte → Except DecodeError (Instr × List Byte)
  | [] => .error (.truncated offset)
  | op :: rest => decodeOperands offset (offset + 1 + rest.length) op rest

/-- `decodeAll` with a bound on the number of operations (each takes at least one byte) and the offset reached. -/
def decodeFrom : Nat → Nat → List Byte → Except DecodeError (List Instr)
  | _, _, [] => .ok []
  | 0, offset, _ :: _ => .error (.truncated offset)
  | fuel + 1, offset, b :: bs =>
    match decodeOne offset (b :: bs) with
    | .error e => .error e
    | .ok (i, rest) =>
      match decodeFrom fuel (offset + ((b :: bs).length - rest.length)) rest with
      | .error e => .error e
      | .ok is => .ok (i :: is)

/-- R80: every byte string decodes to a list of operations, or to a refusal at a named offset. -/
def decodeAll (bs : List Byte) : Except DecodeError (List Instr) := decodeFrom bs.length 0 bs

/-! ### Encoding -/

/-- R78: a u16 length, big-endian (D38). -/
def encodeLen (n : Nat) : List Byte := [BitVec.ofNat 8 (n / 256), BitVec.ofNat 8 (n % 256)]

/-- R78: a blob. -/
def encodeBlob (bs : List Byte) : List Byte := encodeLen bs.length ++ bs

/-- R78: the bytes of an operation; R84: LCDBOOT is written as its expansion. -/
def encode : Instr → List Byte
  | .init => [0x10]
  | .instr b => [0x20, b]
  | .data b => [0x21, b]
  | .instrs bs => 0x22 :: encodeBlob bs
  | .datas bs => 0x23 :: encodeBlob bs
  | .clear => [0x30]
  | .home => [0x31]
  | .backlight color => [0x40, color]
  | .createchar slot pat => 0x50 :: slot :: encodeBlob pat
  | .text t => 0x60 :: encodeBlob t
  | .textc t => 0x61 :: encodeBlob t
  | .sample => [0x70]
  | .name mask => [0x71, mask]
  | .tick => [0x80]
  | .close => [0x81]
  | .lcdboot => lcdbootBytes.flatMap fun b => [0x20, b]

/-! ### The words of the opcode table as bytes of the stream -/

/-- The bytes of a word whose bit 0 is the least significant bit of the first byte: byte k is bits 8k+7..8k. -/
def wordBytes : Nat → Nat → List Byte
  | 0, _ => []
  | n + 1, w => BitVec.ofNat 8 (w % 256) :: wordBytes n (w / 256)

/-- How many bytes the first operation of a byte string needs, a byte not given being read as 0 (R78, R79). -/
def bytesNeeded (bs : List Byte) : Nat :=
  let at' := fun k : Nat => bs.getD k 0
  if at' 0 = 0x20 ∨ at' 0 = 0x21 ∨ at' 0 = 0x40 ∨ at' 0 = 0x71 then 2
  else if at' 0 = 0x22 ∨ at' 0 = 0x23 ∨ at' 0 = 0x60 ∨ at' 0 = 0x61 then 3 + ((at' 1).toNat * 256 + (at' 2).toNat)
  else if at' 0 = 0x50 then 4 + ((at' 2).toNat * 256 + (at' 3).toNat)
  else 1

/-- The instruction whose bits are `w`, of which the opcode table gives `nbits`, as the bytes the host would issue: every bit above
`nbits` is 0, up to the operation's own length. -/
def tableBytes (nbits w : Nat) : List Byte :=
  let given := wordBytes ((nbits + 7) / 8) (w % 2 ^ nbits)
  given ++ List.replicate (bytesNeeded given - given.length) 0

/-- The instruction the decoder reads from an opcode-table word. -/
def decodeTableWord (nbits w : Nat) : Option Instr :=
  match decodeOne 0 (tableBytes nbits w) with
  | .ok (i, _) => some i
  | .error _ => none

end Sys2Proof
end

