-- ==== Sys2Proof/Config.lean ====
section
/-!
DEFINITION. The configuration record of 00_scope.md R9, and the free values of the model: what the environment answers
when no answer has been given to it from outside (10_state.md R38, 93_implementation_defined.md I3), and three of the observer of the LCD
controller alone: where character data goes after the instruction byte 0x00 (30_encoding.md R76, I5), the level of a line that moves with E or
is an input (10_state.md R22), and what two strobes that are no two halves of one transfer make (70_reset_and_hazards.md R171). The default
values of the record stand in Machine/Params.lean, its checks (R10) in Machine/Construct.lean.
-/

namespace Sys2Proof

/-- R9 `SLOT_POLICY`, R81: what CREATECHAR does with a slot above 7. -/
inductive SlotPolicy
  | mask
  | reject
deriving DecidableEq, Repr

/-- R9 `EVENT_PAYLOAD`, R129: what a press or a release event carries. -/
inductive EventPayload
  | delta
  | directional
deriving DecidableEq, Repr

/-- R38: the environment's answer to one transaction. `ok d` answers a write `ok` (the write does not look at `d`) and answers a
read with the byte `d`; `error` answers either with `error`. DESIGN CHOICE, safe (entry 4): one type for both kinds. -/
inductive Answer
  | error
  | ok (data : Byte)
deriving DecidableEq, Repr, Inhabited

/-- R9: the parameters of the machine. FLIP is derived from the data pins (R63) and SLOW_SET from the two slow commands
(R107), so neither is a field. -/
structure Config where
  /-- `BUS_ID`, an integer; no rule reads it after construction -/
  busId : Int
  /-- `DEV_ADDR`, the one device address of every transaction (R41, R45) -/
  devAddr : BitVec 7
  /-- `INTERVAL` in time-units; 0 disables the notifier (R126) -/
  interval : Nat
  /-- `PIN_RS`, a PORTB mask -/
  pinRS : Byte
  /-- `PIN_RW`, a PORTB mask -/
  pinRW : Byte
  /-- `PIN_E`, a PORTB mask -/
  pinE : Byte
  /-- `PIN_D4`, a PORTB mask -/
  pinD4 : Byte
  /-- `PIN_D5`, a PORTB mask -/
  pinD5 : Byte
  /-- `PIN_D6`, a PORTB mask -/
  pinD6 : Byte
  /-- `PIN_D7`, a PORTB mask -/
  pinD7 : Byte
  /-- `PIN_BLUE`, a PORTB mask -/
  pinBlue : Byte
  /-- `PIN_RED`, a PORTA mask -/
  pinRed : Byte
  /-- `PIN_GREEN`, a PORTA mask -/
  pinGreen : Byte
  /-- `BUTTON_MASK`, a PORTA mask -/
  buttonMask : Byte
  /-- `DDRB_D7_DIR`, the direction bit of D7 (R24) -/
  ddrbD7Dir : Byte
  /-- `BUSY_MASK`, the busy flag in a poll read (R33) -/
  busyMask : Byte
  /-- `REG_IOCON_B1` -/
  regIoconB1 : Byte
  /-- `REG_INIT_BASE` -/
  regInitBase : Byte
  /-- `REG_IOCON_B0` -/
  regIoconB0 : Byte
  /-- `IOCON_RUN` -/
  ioconRun : Byte
  /-- `REG_GPIOA` -/
  regGpioa : Byte
  /-- `REG_IODIRB` -/
  regIodirb : Byte
  /-- `REG_GPIOB` -/
  regGpiob : Byte
  /-- `INIT_BLOCK`, 22 bytes (R93) -/
  initBlock : List Byte
  /-- `PORTA_INIT` -/
  portaInit : Byte
  /-- `PORTB_INIT` -/
  portbInit : Byte
  /-- `DDRB_INIT` -/
  ddrbInit : Byte
  /-- `BATCH_MAX`, bytes in one block write -/
  batchMax : Nat
  /-- `CMD_CLEAR`, in SLOW_SET -/
  cmdClear : Byte
  /-- `CMD_HOME`, in SLOW_SET -/
  cmdHome : Byte
  /-- `CMD_SET_CGRAM` -/
  cmdSetCgram : Byte
  /-- `CMD_LINE2` -/
  cmdLine2 : Byte
  /-- `CMD_CGRAM_EXIT` -/
  cmdCgramExit : Byte
  /-- `LINE_SEP` -/
  lineSep : Byte
  /-- `COLOR_RED`, a bit of the colour operand -/
  colorRed : Byte
  /-- `COLOR_GREEN`, a bit of the colour operand -/
  colorGreen : Byte
  /-- `COLOR_BLUE`, a bit of the colour operand -/
  colorBlue : Byte
  /-- `SLOT_POLICY` -/
  slotPolicy : SlotPolicy
  /-- `POLL_LIMIT`, none or a bound L of at least 1 (R104) -/
  pollLimit : Option Nat
  /-- `EVENT_PAYLOAD` -/
  eventPayload : EventPayload
deriving DecidableEq, Repr

/-- A FREE VALUE (entry 5): the environment's answer to the transaction that is waiting when no answer has been given from
outside; the argument counts such answers. It has no body, so nothing can be proved of its value (R38, I3: "a free draw"). -/
opaque Config.freeAnswer : Nat → Answer

/-- R39: whether the controller puts character data into DDRAM or into CGRAM. -/
inductive LcdTarget
  | ddram
  | cgram
deriving DecidableEq, Repr, Inhabited

/-- A FREE VALUE (entry 24): where character data goes after the instruction byte 0x00, as a function of where it went before. R76 puts the byte
in no class and I5 leaves the controller's state after it open ("any value"). It has no body, so nothing can be proved of its value. -/
opaque Config.targetAfterZero : LcdTarget → LcdTarget

/-- R22, R39: one enable strobe as the controller sees it at the 1-to-0 change of E: with R/W = 1 a read, with R/W = 0 a write of the 4 bits on the
data lines; and register select. -/
inductive Strobe
  | read (rs : Bool)
  | write (rs : Bool) (bits : BitVec 4)
deriving DecidableEq, Repr

/-- A FREE VALUE (entry 27): the level the controller takes from a line of port B at a 1-to-0 change of E where the same byte changes that line too,
or where the line is an input of the expander, as a function of the line's pin and of port B's latch before and after. The spec says that the
controller latches at the edge (R22, R54), not which level of a line that moves with it, and only that an input D7 would deliver a wrong bit (R173).
It has no body, so nothing can be proved of its value. -/
opaque Config.openLine : Byte → Byte → Byte → Bool

/-- A byte the controller receives: an instruction (RS = 0) or a character (RS = 1). -/
structure LcdByte where
  rs : Bool
  val : Byte
deriving DecidableEq, Repr

/-- A FREE VALUE (entry 26): the byte, if any, that the controller receives from two strobes it takes as one transfer although one is a read and
the other a write, or their RS differ. That comes about only one nibble out of phase (R171), and the spec does not say what the controller does
with such a pair. It has no body, so nothing can be proved of its value. -/
opaque Config.mixedStrobes : Strobe → Strobe → Option LcdByte

end Sys2Proof
end

