-- ==== Sys2Proof/Machine/Params.lean ====
section
/-!
DEFINITION. The default value of every parameter, from the table of 00_scope.md R9 (entry 14), and INIT_BLOCK as
40_register_model.md R93 lists it.
-/

namespace Sys2Proof

/-- R93: the 22 bytes of INIT_BLOCK in bank-0 register order, from DDRB_INIT, PORTA_INIT and PORTB_INIT. -/
def initBlockOf (ddrbInit portaInit portbInit : Byte) : List Byte :=
  [0x3F, ddrbInit, 0x3F, 0x00, 0x00, 0x00, 0x00, 0x00, 0x00, 0x00, 0x00,
   0x00, 0x3F, 0x00, 0x00, 0x00, 0x00, 0x00, portaInit, portbInit, portaInit, portbInit]

/-- R9: the configuration with every parameter at its default. BUS_ID has no default in R9: DESIGN CHOICE 1, unsafe only for a claim
that reads it, and no rule does (entry 14). -/
def Config.default : Config where
  busId := 1
  devAddr := 0x20
  interval := 200
  pinRS := 0x80
  pinRW := 0x40
  pinE := 0x20
  pinD4 := 0x10
  pinD5 := 0x08
  pinD6 := 0x04
  pinD7 := 0x02
  pinBlue := 0x01
  pinRed := 0x40
  pinGreen := 0x80
  buttonMask := 0x1F
  ddrbD7Dir := 0x02
  busyMask := 0x02
  regIoconB1 := 0x15
  regInitBase := 0x00
  regIoconB0 := 0x0A
  ioconRun := 0xA0
  regGpioa := 0x09
  regIodirb := 0x10
  regGpiob := 0x19
  initBlock := initBlockOf 0x02 0x00 0x00
  portaInit := 0x00
  portbInit := 0x00
  ddrbInit := 0x02
  batchMax := 32
  cmdClear := 0x01
  cmdHome := 0x02
  cmdSetCgram := 0x40
  cmdLine2 := 0xC0
  cmdCgramExit := 0x01
  lineSep := 0x0A
  colorRed := 0x1
  colorGreen := 0x2
  colorBlue := 0x4
  slotPolicy := .mask
  pollLimit := none
  eventPayload := .delta

end Sys2Proof
end

