-- ==== Sys2Proof/Machine/State.lean ====
section
/-!
DEFINITION. The state of the machine as plain data: the block state S of 10_state.md R18, the sequencer position of R31, the
configuration of 00_scope.md R9, and the inputs and outputs of the block (R7, R38, R41, R150). No field holds a function. The block
has no memory that is addressed (20_memory.md R45), so State has none.
-/

namespace Sys2Proof.Machine

/-! ### Transactions, results and events -/

/-- R48: the registers the block addresses, a closed enumeration (`Reg.addr` gives their addresses). -/
inductive Reg
  /-- `REG_IOCON_B1`, INIT only -/
  | ioconB1
  /-- `REG_INIT_BASE`, INIT only -/
  | initBase
  /-- `REG_IOCON_B0`, INIT only -/
  | ioconB0
  /-- `REG_GPIOA` -/
  | gpioa
  /-- `REG_IODIRB` -/
  | iodirb
  /-- `REG_GPIOB` -/
  | gpiob
deriving DecidableEq, Repr

/-- R41: a transaction on the bus, addressed to `DEV_ADDR`. -/
inductive Tx
  /-- `WR(reg, bytes)`: a block write -/
  | wr (reg : Reg) (bytes : List Byte)
  /-- `W1(b)`: a bare one-byte write -/
  | w1 (b : Byte)
  /-- `RR(reg)`: an addressed one-byte read -/
  | rr (reg : Reg)
  /-- `R0()`: a bare one-byte read -/
  | r0
deriving DecidableEq, Repr

/-- R121: the five buttons. -/
inductive Button
  | select
  | right
  | down
  | up
  | left
deriving DecidableEq, Repr

/-- R150: an event of the notifier; `m` is a Mask5. -/
inductive Event
  | change (m : Byte)
  | press (m : Byte)
  | release (m : Byte)
deriving DecidableEq, Repr

/-- R15: what `Ok(v)` carries. -/
inductive Value
  /-- `()` -/
  | unit
  /-- SAMPLE's button mask (R122) -/
  | mask (m : Byte)
  /-- NAME's button or none (R123) -/
  | name (b : Option Button)
  /-- TICK's events (R127) -/
  | events (es : List Event)
deriving DecidableEq, Repr

/-- R135, R142: the named checks of a ProtocolUsageError. -/
inductive UsageCheck
  | patternLen
  | slotRange
deriving DecidableEq, Repr

/-- R135: the errors an operation can end with, and the information each records. ConfigurationError is raised by construction
only (R141): it is a `Fault`. -/
inductive OpError
  /-- the failing transaction and its index in the operation's transaction list, counted from 1 (entry 10) -/
  | transportError (t : Tx) (index : Nat)
  /-- the check's name and the offending value -/
  | protocolUsageError (check : UsageCheck) (value : Nat)
  | notInitialized
  /-- the number of busy reads -/
  | busyTimeout (n : Nat)
deriving DecidableEq, Repr

/-- R15, R136: the result of an operation. -/
inductive OpResult
  | ok (v : Value)
  | err (e : OpError)
deriving DecidableEq, Repr

/-! ### The block state S -/

/-- R29: the state of the event notifier. -/
inductive NotifierState
  | unarmed
  | armed
  | closed
deriving DecidableEq, Repr

/-- R18: the block state S. DisplayState is a view of `ddrb` (R25), not a field. -/
structure Block where
  /-- `S.PORTA`, shadow of port A's output latch (R19) -/
  porta : Byte
  /-- `S.PORTB`, shadow of port B's output latch (R21) -/
  portb : Byte
  /-- `S.DDRB`, shadow of port B's direction register (R23) -/
  ddrb : Byte
  /-- `S.ready` (R27) -/
  ready : Bool
  /-- `S.stale`, a ghost flag (R28) -/
  stale : Bool
  /-- `S.notifier` (R29) -/
  notifier : NotifierState
  /-- `S.prevMask`, a Mask5 (R30) -/
  prevMask : Byte
deriving DecidableEq, Repr

/-! ### The sequencer -/

/-- A bus step of a body: one transaction, with what its answer is for (R14). The payload is computed when the pseudocode line is
reached, so a step holds the bytes it sends. -/
inductive Act
  /-- `BusWR(reg, bytes)` of INIT, which writes no shadow (R94) -/
  | busWR (reg : Reg) (bytes : List Byte)
  /-- `WriteGpioA(v)` (R90) -/
  | writeGpioA (v : Byte)
  /-- `WriteGpioB(bs)` of BACKLIGHT (R91, R119) -/
  | writeGpioB (bs : List Byte)
  /-- `WriteGpioB(bs)` of frames: EmitByte and EmitSeq (R91, R105, R106) -/
  | sendFrames (bs : List Byte)
  /-- `SetDirectionB(v)` of a slow command (R92, R108) -/
  | setDirectionB (v : Byte)
  /-- the poll's SETUP (R101) -/
  | pollSetup (lo hi : Byte)
  /-- the poll's STROBE_HI after n iterations -/
  | pollStrobeHi (lo hi : Byte) (n : Nat)
  /-- the poll's READ -/
  | pollRead (lo hi : Byte) (n : Nat)
  /-- the poll's STROBE_REST, followed by DECIDE on the byte r just read -/
  | pollStrobeRest (lo hi : Byte) (n : Nat) (r : Byte)
  /-- the poll's EXIT, `SetDirectionB(v)` -/
  | pollExit (v : Byte)
  /-- SAMPLE's read (R122) -/
  | readButtons
  /-- TICK's read (R127) -/
  | readTick
deriving DecidableEq, Repr

/-- A line of a body's pseudocode. A line may compute, write S, raise, return, or give the bus steps it is made of. -/
inductive Line
  /-- `if not S.ready: raise NotInitialized()` (R143) -/
  | requireReady
  /-- `LcdPrologue()` (R100) -/
  | prologue
  /-- `EmitByte(c, v)` (R105) -/
  | emitByte (c : Bool) (v : Byte)
  /-- `EmitSeq(c, vs)` (R106) -/
  | emitSeq (c : Bool) (vs : List Byte)
  /-- `if c = 0 and b in SLOW_SET: SetDirectionB(S.DDRB | DDRB_D7_DIR)` (R108), on the instruction byte b -/
  | slowStep (b : Byte)
  /-- `if len(pat) != 8: raise ProtocolUsageError(PatternLen)` (R112) -/
  | requirePattern (len : Nat)
  /-- `if SLOT_POLICY = reject and slot > 7: raise ProtocolUsageError(SlotRange)` (R112) -/
  | requireSlot (slot : Byte)
  /-- `S.ready <- false` (R94) -/
  | enterInit
  /-- `BusWR(reg, bytes)` of INIT (R94) -/
  | busWR (reg : Reg) (bytes : List Byte)
  /-- INIT's assignments after its three writes, and `call ArmNotifier()` (R94, R133) -/
  | finishInit
  /-- `WriteGpioA(ColorA(S.PORTA, color))` (R119) -/
  | colorA (color : Byte)
  /-- `WriteGpioB([ColorB(S.PORTB, color)])` (R119) -/
  | colorB (color : Byte)
  /-- `r <- BusRR(REG_GPIOA); return Ok(r & BUTTON_MASK)` (R122) -/
  | sample
  /-- `if S.notifier != Armed: return Ok([])` (R127, R131) -/
  | tickGate
  /-- TICK from its `BusRR` to its return (R127) -/
  | tickSample
  /-- `S.notifier <- Closed` (R132) -/
  | close
  /-- `return Ok(v)` -/
  | ret (v : Value)
deriving DecidableEq, Repr

/-- R138 (d): where an operation's result goes: to the Host, or, for a TICK, to the Timer's event port. -/
inductive Port
  | host
  | timer
deriving DecidableEq, Repr

/-- R31: a point inside the body of the operation in progress. -/
structure Running where
  /-- where the result goes -/
  port : Port
  /-- the bus step whose transaction has been emitted and awaits its answer -/
  act : Act
  /-- the bus steps of the current line that come after it -/
  acts : List Act
  /-- the lines of the body that come after the current one -/
  lines : List Line
  /-- how many transactions the operation has emitted, the awaited one among them -/
  emitted : Nat
deriving DecidableEq, Repr

/-- R31: the sequencer position. -/
inductive Seq
  | between
  | running (r : Running)
deriving DecidableEq, Repr

/-! ### The machine's state and its reasons to stop -/

/-- The state of the machine. INVENTORY.md's '## State' gives the rule behind every field. -/
structure State where
  /-- R9: the parameters; no step writes it (entry 1) -/
  cfg : Config
  /-- R18: S -/
  block : Block
  /-- R31: the sequencer position -/
  seq : Seq
  /-- R55: operations that wait for the one in progress -/
  queued : List Instr
  /-- R31, R78: the serialised operation stream, its bytes not yet read -/
  input : List Byte
  /-- R80: the offset in the stream of the first byte of `input` -/
  offset : Nat
  /-- R38: answers the environment has given and no transaction has used yet (entry 4) -/
  env : List Answer
  /-- the model's own: how many answers were drawn from `Config.freeAnswer` (entry 5) -/
  draws : Nat
  /-- R41, R56: every transaction emitted, oldest first -/
  trace : List Tx
  /-- R7: the results returned to the Host, oldest first -/
  results : List OpResult
  /-- R134, R150: the event output port, the result of each TICK, oldest first -/
  events : List OpResult
deriving DecidableEq, Repr

/-- R141: the constructor arguments whose check raises ConfigurationError. -/
inductive ConfigParam
  | busId
  | devAddr
  | interval
deriving DecidableEq, Repr

/-- The checks whose failure makes the model refuse a configuration (R10 (a) to (d), I16; the last two are entry 15). -/
inductive ConfigCheck
  | portbPins
  | colourPins
  | directionBits
  | batchMax
  | initBlockLength
  | pollLimit
deriving DecidableEq, Repr

/-- Why the machine stops with a fault. No host operation faults: its errors are results (R136). -/
inductive Fault
  /-- Raised by `construct` alone, before any transaction (R141); no state is created. Safe. -/
  | configurationError (p : ConfigParam)
deriving DecidableEq, Repr

/-- Why the model refuses. -/
inductive Refusal
  /-- An instruction without a meaning yet. Raised by no arm of `exec`: every instruction has its meaning. Safe. -/
  | notModelled (mnemonic : String)
  /-- Raised by `step` when the stream's next byte is no opcode (R80: the block is never given such an operation). Safe. -/
  | reservedOpcode (op : Byte) (offset : Nat)
  /-- Raised by `step` when the stream ends inside an operand (R80). Safe. -/
  | truncated (offset : Nat)
  /-- Raised by `construct` alone, for a configuration that fails R10 (a) to (d) (I16, entry 15). Safe. -/
  | illFormedConfig (c : ConfigCheck)
deriving DecidableEq, Repr

/-! ### Reset -/

/-- R40, R158: S at construction, before any INIT. R40 gives the three shadows and `prevMask` no value; DESIGN CHOICE 0x00, unsafe
(entries 2 and 3). -/
def Block.reset : Block where
  porta := 0x00
  portb := 0x00
  ddrb := 0x00
  ready := false
  stale := false
  notifier := .unarmed
  prevMask := 0x00

/-- R97, R158: the machine as construction creates it from a configuration, with nothing issued, answered or emitted. -/
def State.created (cfg : Config) : State where
  cfg := cfg
  block := Block.reset
  seq := .between
  queued := []
  input := []
  offset := 0
  env := []
  draws := 0
  trace := []
  results := []
  events := []

/-- R40, R158: the machine right after reset, with the default configuration of R9. -/
def State.reset : State := State.created Config.default

end Sys2Proof.Machine
end

