-- ==== Sys2Proof/Machine/Operands.lean ====
section
/-!
DEFINITION. Every byte the engine builds, from 30_encoding.md R63 to R66, R81, R82, the batches of 41_lcd_engine.md R106, the lines of
R114, the slow set of R107, and the button names of 42_backlight_buttons.md R123.
-/

namespace Sys2Proof.Machine

/-! ### Registers and the bytes of a transaction -/

/-- R9, R48: the address of a register. -/
def Reg.addr (cfg : Config) : Reg → Byte
  | .ioconB1 => cfg.regIoconB1
  | .initBase => cfg.regInitBase
  | .ioconB0 => cfg.regIoconB0
  | .gpioa => cfg.regGpioa
  | .iodirb => cfg.regIodirb
  | .gpiob => cfg.regGpiob

/-- R41: the bytes the block sends in a transaction: the register address where there is one, then the data. -/
def Tx.payload (cfg : Config) : Tx → List Byte
  | .wr reg bytes => reg.addr cfg :: bytes
  | .w1 b => [b]
  | .rr reg => [reg.addr cfg]
  | .r0 => []

/-- R41: a transaction as the transport gets it: the device address and the payload. -/
def Tx.onBus (cfg : Config) (t : Tx) : BitVec 7 × List Byte := (cfg.devAddr, t.payload cfg)

/-! ### Frames -/

/-- R11: `v[7:4]`. -/
def highNibble (v : Byte) : BitVec 4 := v.extractLsb' 4 4

/-- R11: `v[3:0]`. -/
def lowNibble (v : Byte) : BitVec 4 := v.extractLsb' 0 4

/-- R11: a mask where a bit is set, and 0 where it is not. -/
def maskIf (b : Bool) (m : Byte) : Byte := if b then m else 0

/-- R63: `FLIP[n]`, the PORTB bits that carry the 4-bit value n. -/
def flipTable (cfg : Config) (n : BitVec 4) : Byte :=
  maskIf (n.getLsbD 0) cfg.pinD4 ||| maskIf (n.getLsbD 1) cfg.pinD5 |||
    maskIf (n.getLsbD 2) cfg.pinD6 ||| maskIf (n.getLsbD 3) cfg.pinD7

/-- R64: the four PORTB bytes of a byte v: each nibble, the high one first, with E raised and then lowered. -/
def frame (cfg : Config) (base v : Byte) : List Byte :=
  let hiN := base ||| flipTable cfg (highNibble v)
  let loN := base ||| flipTable cfg (lowNibble v)
  [hiN ||| cfg.pinE, hiN, loN ||| cfg.pinE, loN]

/-- R65: the base mask: the blue bit of the shadow, and RS for character data (C2). -/
def base (cfg : Config) (blk : Block) (c : Bool) : Byte := (blk.portb &&& cfg.pinBlue) ||| maskIf c cfg.pinRS

/-- R106: the batches of EmitSeq from the frames already in `buf`: a batch is sent when it holds `BATCH_MAX` bytes or more, or with the
last byte of the sequence. -/
def batchesFrom (cfg : Config) (bs buf : List Byte) (baseMask : Byte) : List (List Byte) :=
  match bs with
  | [] => []
  | v :: vs =>
    if cfg.batchMax ≤ (buf ++ frame cfg baseMask v).length ∨ vs = [] then
      (buf ++ frame cfg baseMask v) :: batchesFrom cfg vs [] baseMask
    else batchesFrom cfg vs (buf ++ frame cfg baseMask v) baseMask

/-- R106: the PORTB bytes of each WR of `EmitSeq(c, vs)`. -/
def batches (cfg : Config) (baseMask : Byte) (vs : List Byte) : List (List Byte) := batchesFrom cfg vs [] baseMask

/-! ### The busy poll's bytes -/

/-- R66: `PollLo(S)`: RS = 0, R/W = 1, E = 0, the blue bit kept. -/
def pollLo (cfg : Config) (blk : Block) : Byte := (blk.portb &&& cfg.pinBlue) ||| cfg.pinRW

/-- R66: `PollHi(S)`: the same with E = 1. -/
def pollHi (cfg : Config) (blk : Block) : Byte := pollLo cfg blk ||| cfg.pinE

/-! ### Instruction bytes the engine builds or tests -/

/-- R107: membership of SLOW_SET, by exact value. -/
def isSlow (cfg : Config) (b : Byte) : Bool := b == cfg.cmdClear || b == cfg.cmdHome

/-- R81: `Slot(slot)`. Under `reject` the slots above 7 have raised before. -/
def slotOf (cfg : Config) (slot : Byte) : Byte :=
  match cfg.slotPolicy with
  | .mask => slot &&& 7
  | .reject => slot

/-- R81: `CgramCmd(slot)`. -/
def cgramCmd (cfg : Config) (slot : Byte) : Byte := cfg.cmdSetCgram ||| (slotOf cfg slot <<< 3)

/-- R114: `Lines(t)`, t split at every byte equal to `LINE_SEP`. -/
def splitLines (sep : Byte) : List Byte → List (List Byte)
  | [] => [[]]
  | b :: t =>
    if b = sep then [] :: splitLines sep t
    else
      match splitLines sep t with
      | l :: ls => (b :: l) :: ls
      | [] => [[b]]

/-! ### The backlight colour -/

/-- R82: `k`, the inverted logical colour in 3 bits. -/
def invertedColor (color : Byte) : Byte := ~~~color &&& 0x07

/-- R11: some bit of `m` is set in `v`. -/
def anyBit (v m : Byte) : Bool := v &&& m != 0

/-- R82: `ColorA(PA, color)`: a dark LED is pin level 1. -/
def colorPortA (cfg : Config) (pa color : Byte) : Byte :=
  (pa &&& ~~~(cfg.pinRed ||| cfg.pinGreen)) ||| maskIf (anyBit (invertedColor color) cfg.colorRed) cfg.pinRed |||
    maskIf (anyBit (invertedColor color) cfg.colorGreen) cfg.pinGreen

/-- R82: `ColorB(PB, color)`. -/
def colorPortB (cfg : Config) (pb color : Byte) : Byte :=
  (pb &&& ~~~cfg.pinBlue) ||| maskIf (anyBit (invertedColor color) cfg.colorBlue) cfg.pinBlue

/-- R82: the colour that two port values show, `~(PA[6] | PA[7] << 1 | PB[0] << 2) & 7` under the default pins. -/
def shownColor (cfg : Config) (pa pb : Byte) : Byte :=
  ~~~(maskIf (anyBit pa cfg.pinRed) cfg.colorRed ||| maskIf (anyBit pa cfg.pinGreen) cfg.colorGreen |||
    maskIf (anyBit pb cfg.pinBlue) cfg.colorBlue) &&& 0x07

/-! ### Buttons -/

/-- R121: the mask bit of a button. -/
def Button.bit : Button → Byte
  | .select => 0x01
  | .right => 0x02
  | .down => 0x04
  | .up => 0x08
  | .left => 0x10

/-- R123: the button a mask names: exact single-button values only. -/
def buttonName (mask : Byte) : Option Button :=
  if mask = Button.bit .select then some .select
  else if mask = Button.bit .right then some .right
  else if mask = Button.bit .down then some .down
  else if mask = Button.bit .up then some .up
  else if mask = Button.bit .left then some .left
  else none

end Sys2Proof.Machine
end

