-- ==== Sys2Proof/Machine/Flags.lean ====
section
/-!
DEFINITION. The flags and modes of 10_state.md R25 to R34 and how they are computed: DisplayState, the transient busy flag, the
notifier's arming (43_event_notifier.md R133) and TICK's classification of a change (R127 to R130). The block has no condition codes.
-/

namespace Sys2Proof.Machine

/-- R25: DisplayState. -/
inductive DisplayState
  | idle
  | commandPolling
deriving DecidableEq, Repr

/-- R25: `DS(S)`, the view of `S.DDRB`: CommandPolling when D7 is an input. -/
def displayState (cfg : Config) (blk : Block) : DisplayState :=
  if blk.ddrb &&& cfg.ddrbD7Dir = 0 then .idle else .commandPolling

/-- R33: the busy flag of a byte read by the poll; every other bit is ignored (R102, I4). -/
def busyFlag (cfg : Config) (r : Byte) : Bool := anyBit r cfg.busyMask

/-- R104: after n busy reads in one poll the bound `POLL_LIMIT` is reached. -/
def pollExpired (cfg : Config) (n : Nat) : Bool :=
  match cfg.pollLimit with
  | none => false
  | some l => l ≤ n

/-- R133: `ArmNotifier()`. -/
def armNotifier (cfg : Config) (blk : Block) : Block :=
  if 0 < cfg.interval ∧ blk.notifier = .unarmed then { blk with notifier := .armed, prevMask := 0x00 } else blk

/-- R94: S after INIT's three writes. -/
def initialised (cfg : Config) (blk : Block) : Block :=
  armNotifier cfg
    { blk with porta := cfg.portaInit, portb := cfg.portbInit, ddrb := cfg.ddrbInit, stale := false, ready := true }

/-- R129: what a press carries. -/
def pressPayload (cfg : Config) (prev cur : Byte) : Byte :=
  match cfg.eventPayload with
  | .delta => prev ^^^ cur
  | .directional => cur &&& ~~~prev

/-- R129: what a release carries. -/
def releasePayload (cfg : Config) (prev cur : Byte) : Byte :=
  match cfg.eventPayload with
  | .delta => prev ^^^ cur
  | .directional => prev &&& ~~~cur

/-- R127, R128: the second event of a change: release when cur < prev as unsigned integers, press otherwise. -/
def changeKind (cfg : Config) (prev cur : Byte) : Event :=
  if cur < prev then .release (releasePayload cfg prev cur) else .press (pressPayload cfg prev cur)

/-- R127: the events of a sample: none when the mask is unchanged, else exactly two. -/
def tickEvents (cfg : Config) (prev cur : Byte) : List Event :=
  if cur = prev then [] else [.change (prev ^^^ cur), changeKind cfg prev cur]

end Sys2Proof.Machine
end

