-- ==== Sys2Proof/Machine/Ops.lean ====
section
/-!
DEFINITION. The operations every meaning shares: the four bus primitives and the shadow writes (40_register_model.md R88 to R92), the
lines of the bodies, the busy-poll FSM (41_lcd_engine.md R101), raising an error (60_exceptions.md R136 to R145), and the sequencer
that performs a body until it ends or awaits an answer (10_state.md R31).

An error is a result, not a trap (R148): `complete` is the whole of taking one, and there is no return from one.
-/

namespace Sys2Proof.Machine

/-! ### What a line or an answered transaction leads to -/

/-- How a body goes on: with S and further bus steps, with a raise, or with a return. -/
inductive Cont
  | go (blk : Block) (acts : List Act)
  | raise (blk : Block) (e : OpError)
  | done (blk : Block) (v : Value)
deriving DecidableEq, Repr

/-! ### Bus steps -/

/-- R14, R41: the transaction of a bus step. -/
def Act.tx : Act → Tx
  | .busWR reg bytes => .wr reg bytes
  | .writeGpioA v => .wr .gpioa [v]
  | .writeGpioB bs => .wr .gpiob bs
  | .sendFrames bs => .wr .gpiob bs
  | .setDirectionB v => .wr .iodirb [v]
  | .pollSetup lo _ => .wr .gpiob [lo]
  | .pollStrobeHi _ hi _ => .w1 hi
  | .pollRead _ _ _ => .r0
  | .pollStrobeRest lo hi _ _ => .wr .gpiob [lo, hi, lo]
  | .pollExit v => .wr .iodirb [v]
  | .readButtons => .rr .gpioa
  | .readTick => .rr .gpioa

/-- R91: `S.PORTB <- last(bs)`. -/
def setPortB (bs : List Byte) (blk : Block) : Block := { blk with portb := bs.getLastD blk.portb }

/-- R101: DECIDE, after the n-th iteration read r: not busy goes to EXIT, busy goes round again or, at the bound, times out (R104). -/
def pollDecide (cfg : Config) (blk : Block) (lo hi : Byte) (n : Nat) (r : Byte) : Cont :=
  if busyFlag cfg r then
    if pollExpired cfg n then .raise blk (.busyTimeout n) else .go blk [.pollStrobeHi lo hi n]
  else .go blk [.pollExit (blk.ddrb &&& ~~~cfg.ddrbD7Dir)]

/-- R127: TICK from `cur <- r & BUTTON_MASK` to its return. -/
def tickDecide (cfg : Config) (blk : Block) (r : Byte) : Cont :=
  .done { blk with prevMask := r &&& cfg.buttonMask }
    (.events (tickEvents cfg blk.prevMask (r &&& cfg.buttonMask)))

/-- R13, R89: what a bus step does once its transaction is answered ok, with `d` the byte a read returns. The shadow is assigned here
and nowhere else, so a failed transaction leaves it. -/
def Act.onOk (cfg : Config) (blk : Block) (d : Byte) : Act → Cont
  | .busWR _ _ => .go blk []
  | .writeGpioA v => .go { blk with porta := v } []
  | .writeGpioB bs => .go (setPortB bs blk) []
  | .sendFrames bs => .go (setPortB bs blk) []
  | .setDirectionB v => .go { blk with ddrb := v } []
  | .pollSetup lo hi => .go (setPortB [lo] blk) [.pollStrobeHi lo hi 0]
  | .pollStrobeHi lo hi n => .go { blk with portb := hi } [.pollRead lo hi n]
  | .pollRead lo hi n => .go blk [.pollStrobeRest lo hi n d]
  | .pollStrobeRest lo hi n r => pollDecide cfg (setPortB [lo, hi, lo] blk) lo hi (n + 1) r
  | .pollExit v => .go { blk with ddrb := v } []
  | .readButtons => .done blk (.mask (d &&& cfg.buttonMask))
  | .readTick => tickDecide cfg blk d

/-! ### Lines of a body -/

/-- R143: `if not S.ready: raise NotInitialized()`. -/
def requireReady (blk : Block) : Cont := if blk.ready then .go blk [] else .raise blk .notInitialized

/-- R100: `LcdPrologue()`; the poll computes lo and hi once (R101). -/
def lcdPrologue (cfg : Config) (blk : Block) : Cont :=
  if blk.ready then
    match displayState cfg blk with
    | .commandPolling => .go blk [.pollSetup (pollLo cfg blk) (pollHi cfg blk)]
    | .idle => .go blk []
  else .raise blk .notInitialized

/-- R112, R142: `PatternLen`. -/
def requirePattern (blk : Block) (len : Nat) : Cont :=
  if len = 8 then .go blk [] else .raise blk (.protocolUsageError .patternLen len)

/-- R112, R142: `SlotRange`, under `SLOT_POLICY` = reject only. -/
def requireSlot (cfg : Config) (blk : Block) (slot : Byte) : Cont :=
  if cfg.slotPolicy = .reject ∧ 7 < slot.toNat then .raise blk (.protocolUsageError .slotRange slot.toNat) else .go blk []

/-- What a line of a body does. -/
def Line.perform (cfg : Config) (blk : Block) : Line → Cont
  | .requireReady => Machine.requireReady blk
  | .prologue => lcdPrologue cfg blk
  | .emitByte c v => .go blk [.sendFrames (frame cfg (base cfg blk c) v)]
  | .emitSeq c vs => .go blk ((batches cfg (base cfg blk c) vs).map .sendFrames)
  | .slowStep b => .go blk (if isSlow cfg b then [.setDirectionB (blk.ddrb ||| cfg.ddrbD7Dir)] else [])
  | .requirePattern len => Machine.requirePattern blk len
  | .requireSlot slot => Machine.requireSlot cfg blk slot
  | .enterInit => .go { blk with ready := false } []
  | .busWR reg bytes => .go blk [.busWR reg bytes]
  | .finishInit => .go (initialised cfg blk) []
  | .colorA color => .go blk [.writeGpioA (colorPortA cfg blk.porta color)]
  | .colorB color => .go blk [.writeGpioB [colorPortB cfg blk.portb color]]
  | .sample => .go blk [.readButtons]
  | .tickGate => if blk.notifier = .armed then .go blk [] else .done blk (.events [])
  | .tickSample => .go blk [.readTick]
  | .close => .go { blk with notifier := .closed } []
  | .ret v => .done blk v

/-! ### The sequencer -/

/-- R136, R138 (c) (d): an operation ends; its result goes to its issuer, and the sequencer is between operations. -/
def complete (port : Port) (r : OpResult) (s : State) : State :=
  match port with
  | .host => { s with seq := .between, results := s.results ++ [r] }
  | .timer => { s with seq := .between, events := s.events ++ [r] }

/-- R14: a bus step's transaction is emitted, and the sequencer awaits its answer. -/
def emit (port : Port) (emitted : Nat) (act : Act) (acts : List Act) (lines : List Line) (s : State) : State :=
  { s with
    trace := s.trace ++ [act.tx]
    seq := .running { port := port, act := act, acts := acts, lines := lines, emitted := emitted + 1 } }

/-- R31: the sequencer goes on to the body's next transaction, performing the lines before it, or to the body's end. A body that
runs off its last line returns `Ok(())`. -/
def proceed (port : Port) (emitted : Nat) : List Act → List Line → State → State
  | a :: acts, lines, s => emit port emitted a acts lines s
  | [], [], s => complete port (.ok .unit) s
  | [], l :: lines, s =>
    match l.perform s.cfg s.block with
    | .go blk acts => proceed port emitted acts lines { s with block := blk }
    | .raise blk e => complete port (.err e) { s with block := blk }
    | .done blk v => complete port (.ok v) { s with block := blk }

/-- R14, R138: the awaited transaction is answered. An `error` raises TransportError: the shadow is left, `S.stale` is set, the
operation ends with every caller it is inside. -/
def answer (a : Answer) (r : Running) (s : State) : State :=
  match a with
  | .error =>
    complete r.port (.err (.transportError r.act.tx r.emitted)) { s with block := { s.block with stale := true } }
  | .ok d =>
    match r.act.onOk s.cfg s.block d with
    | .go blk acts => proceed r.port r.emitted (acts ++ r.acts) r.lines { s with block := blk }
    | .raise blk e => complete r.port (.err e) { s with block := blk }
    | .done blk v => complete r.port (.ok v) { s with block := blk }

/-- R31, R38: the given answers go to the awaited transactions one by one, until the operation ends (the answers left over stay in
`env`) or they run out (the operation stays in progress). -/
def drain : List Answer → State → State
  | [], s => s
  | a :: as, s =>
    match s.seq with
    | .between => { s with env := a :: as }
    | .running r => drain as (answer a r s)

/-- A body is performed from its first line, between operations. -/
def beginOp (port : Port) (body : List Line) (s : State) : State :=
  drain s.env (proceed port 0 [] body { s with env := [] })

/-- R55: an operation is performed if none is in progress; otherwise it waits its turn. -/
def perform (op : Instr) (port : Port) (body : List Line) (s : State) : Host.Outcome State Fault Refusal :=
  match s.seq with
  | .between => .next (beginOp port body s)
  | .running _ => .next { s with queued := s.queued ++ [op] }

/-- R14, R38: the operation in progress goes on: with the answers given since, or with one answer drawn freely (entry 5). -/
def resume (s : State) : State :=
  match s.env with
  | [] => drain [Config.freeAnswer s.draws] { s with draws := s.draws + 1 }
  | a :: as => drain (a :: as) { s with env := [] }

/-! ### The outside world -/

/-- R8, R55: operations are issued, as bytes of the serialised stream. -/
def State.issue (bytes : List Byte) (s : State) : State := { s with input := s.input ++ bytes }

/-- R38: the environment gives answers to the transactions to come. -/
def State.giveAnswers (as : List Answer) (s : State) : State := { s with env := s.env ++ as }

/-- R135: the numeric code of an error. -/
def OpError.code : OpError → Nat
  | .transportError _ _ => 1
  | .protocolUsageError _ _ => 3
  | .notInitialized => 4
  | .busyTimeout _ => 5

/-- R135, R141: the numeric code of ConfigurationError. -/
def Fault.code : Fault → Nat
  | .configurationError _ => 2

/-- R150: the events an operation's result carries. -/
def OpResult.eventList : OpResult → List Event
  | .ok (.events es) => es
  | .ok .unit => []
  | .ok (.mask _) => []
  | .ok (.name _) => []
  | .err _ => []

/-- R150: every event delivered at the port, in order. -/
def State.delivered (s : State) : List Event := s.events.flatMap OpResult.eventList

end Sys2Proof.Machine
end

