-- ==== Sys2Proof/Machine/Backlight.lean ====
section
/-!
DEFINITION. BACKLIGHT, SAMPLE and NAME, the operations of 42_backlight_buttons.md. None of them looks at DisplayState (R116).
-/

namespace Sys2Proof.Machine

/-- R119: the body of BACKLIGHT: PORTA, then PORTB, in two writes (R118). -/
def backlightBody (color : Byte) : List Line := [.requireReady, .colorA color, .colorB color]

/-- R122: the body of SAMPLE; the expander has inverted the buttons (C3), so the sampler does not. -/
def sampleBody : List Line := [.requireReady, .sample]

/-- R123: the body of NAME. -/
def nameBody (mask : Byte) : List Line := [.ret (.name (buttonName mask))]

/-- BACKLIGHT color (R119). -/
def execBacklight (color : Byte) (s : State) : Host.Outcome State Fault Refusal :=
  perform (.backlight color) .host (backlightBody color) s

/-- SAMPLE (R122). -/
def execSample (s : State) : Host.Outcome State Fault Refusal := perform .sample .host sampleBody s

/-- NAME mask (R123): allowed before INIT. -/
def execName (mask : Byte) (s : State) : Host.Outcome State Fault Refusal := perform (.name mask) .host (nameBody mask) s

end Sys2Proof.Machine
end

