-- ==== Sys2Proof/Machine/Lcd.lean ====
section
/-!
DEFINITION. The LCD operations of 41_lcd_engine.md: INSTR, DATA, INSTRS, DATAS, CLEAR, HOME, CREATECHAR, TEXT and TEXTC. A `call` of
another operation is its body in place (00_scope.md R16): a raise in it ends the caller.
-/

namespace Sys2Proof.Machine

/-! ### Bodies -/

/-- R108: `INSTR b`. -/
def instrBody (b : Byte) : List Line := [.prologue, .emitByte false b, .slowStep b]

/-- R108: `DATA b`; c = 1, so the slow set is not consulted (R107). -/
def dataBody (b : Byte) : List Line := [.prologue, .emitByte true b]

/-- R109: `INSTRS bs` (c = 0) and `DATAS bs` (c = 1). -/
def seqBody (c : Bool) (bs : List Byte) : List Line := [.prologue, .emitSeq c bs]

/-- R112: `CREATECHAR slot, pat`. -/
def createcharBody (cfg : Config) (slot : Byte) (pat : List Byte) : List Line :=
  [.requireReady, .requirePattern pat.length, .requireSlot slot] ++
    instrBody (cgramCmd cfg slot) ++ seqBody true pat ++ instrBody cfg.cmdCgramExit

/-- R113: lines 0 and 1 of a text; later lines are dropped. -/
def textLines (cfg : Config) : List (List Byte) → List Line
  | [] => []
  | [l0] => seqBody true l0
  | l0 :: l1 :: _ => seqBody true l0 ++ instrBody cfg.cmdLine2 ++ seqBody true l1

/-- R113: `TEXT t` and, with `clearFirst`, `TEXTC t`. -/
def textBody (cfg : Config) (clearFirst : Bool) (t : List Byte) : List Line :=
  [.requireReady] ++ (if clearFirst then instrBody cfg.cmdClear else []) ++ textLines cfg (splitLines cfg.lineSep t)

/-! ### Meanings -/

/-- INSTR b (R108). -/
def execInstr (b : Byte) (s : State) : Host.Outcome State Fault Refusal := perform (.instr b) .host (instrBody b) s

/-- DATA b (R108). -/
def execData (b : Byte) (s : State) : Host.Outcome State Fault Refusal := perform (.data b) .host (dataBody b) s

/-- INSTRS bs (R109). -/
def execInstrs (bs : List Byte) (s : State) : Host.Outcome State Fault Refusal :=
  perform (.instrs bs) .host (seqBody false bs) s

/-- DATAS bs (R109). -/
def execDatas (bs : List Byte) (s : State) : Host.Outcome State Fault Refusal :=
  perform (.datas bs) .host (seqBody true bs) s

/-- CLEAR (R110). -/
def execClear (s : State) : Host.Outcome State Fault Refusal := perform .clear .host (instrBody s.cfg.cmdClear) s

/-- HOME (R111). -/
def execHome (s : State) : Host.Outcome State Fault Refusal := perform .home .host (instrBody s.cfg.cmdHome) s

/-- CREATECHAR slot, pat (R112). -/
def execCreatechar (slot : Byte) (pat : List Byte) (s : State) : Host.Outcome State Fault Refusal :=
  perform (.createchar slot pat) .host (createcharBody s.cfg slot pat) s

/-- TEXT t (R113). -/
def execText (t : List Byte) (s : State) : Host.Outcome State Fault Refusal :=
  perform (.text t) .host (textBody s.cfg false t) s

/-- TEXTC t (R113). -/
def execTextc (t : List Byte) (s : State) : Host.Outcome State Fault Refusal :=
  perform (.textc t) .host (textBody s.cfg true t) s

end Sys2Proof.Machine
end

