-- ==== Sys2Proof/Machine/Boot.lean ====
section
/-!
DEFINITION. LCDBOOT, the pseudo-instruction of 30_encoding.md R84 and 70_reset_and_hazards.md R160 (entry 9): its meaning is that of the
eight INSTRs it expands to, one after the other, each an operation with a result of its own.
-/

namespace Sys2Proof.Machine

/-- R84: `INSTR b` for each byte in turn. Where one awaits an answer that has not been given, the INSTRs after it wait in `queued`. -/
def instrSequence : List Byte → State → State
  | [], s => s
  | b :: bs, s =>
    match (beginOp .host (instrBody b) s).seq with
    | .between => instrSequence bs (beginOp .host (instrBody b) s)
    | .running _ =>
      { beginOp .host (instrBody b) s with queued := bs.map .instr ++ (beginOp .host (instrBody b) s).queued }

/-- LCDBOOT (R84, R160). -/
def execLcdboot (s : State) : Host.Outcome State Fault Refusal :=
  match s.seq with
  | .between => .next (instrSequence lcdbootBytes s)
  | .running _ => .next { s with queued := s.queued ++ lcdbootBytes.map .instr }

end Sys2Proof.Machine
end

