-- ==== Sys2Proof/Machine/Notifier.lean ====
section
/-!
DEFINITION. TICK and CLOSE, the operations of 43_event_notifier.md. ArmNotifier (R133) is part of INIT (Flags.lean).
-/

namespace Sys2Proof.Machine

/-- R127: the body of TICK; a notifier that is not Armed ends it before the ready check (R131, R145). -/
def tickBody : List Line := [.tickGate, .requireReady, .tickSample]

/-- R132: the body of CLOSE. -/
def closeBody : List Line := [.close]

/-- TICK (R127): its result goes to the Timer's event port (R134, R150). -/
def execTick (s : State) : Host.Outcome State Fault Refusal := perform .tick .timer tickBody s

/-- CLOSE (R132): allowed before INIT. -/
def execClose (s : State) : Host.Outcome State Fault Refusal := perform .close .host closeBody s

end Sys2Proof.Machine
end

