-- ==== Sys2Proof/Machine/Register.lean ====
section
/-!
DEFINITION. INIT, the operation of 40_register_model.md.
-/

namespace Sys2Proof.Machine

/-- R94: the body of INIT, line by line. -/
def initBody (cfg : Config) : List Line :=
  [.enterInit,
   .busWR .ioconB1 [0x00],
   .busWR .initBase cfg.initBlock,
   .busWR .ioconB0 [cfg.ioconRun],
   .finishInit]

/-- INIT (R94): allowed in every state (R96). -/
def execInit (s : State) : Host.Outcome State Fault Refusal := perform .init .host (initBody s.cfg) s

end Sys2Proof.Machine
end

