-- ==== Sys2Proof/Machine/Dispatch.lean ====
section
/-!
DEFINITION. One arm for each instruction.
-/

namespace Sys2Proof.Machine

def exec (i : Instr) (s : State) : Host.Outcome State Fault Refusal :=
  match i with
  | .init => Sys2Proof.Machine.execInit s
  | .instr b => Sys2Proof.Machine.execInstr b s
  | .data b => Sys2Proof.Machine.execData b s
  | .instrs bs => Sys2Proof.Machine.execInstrs bs s
  | .datas bs => Sys2Proof.Machine.execDatas bs s
  | .clear => Sys2Proof.Machine.execClear s
  | .home => Sys2Proof.Machine.execHome s
  | .backlight color => Sys2Proof.Machine.execBacklight color s
  | .createchar slot pat => Sys2Proof.Machine.execCreatechar slot pat s
  | .text t => Sys2Proof.Machine.execText t s
  | .textc t => Sys2Proof.Machine.execTextc t s
  | .sample => Sys2Proof.Machine.execSample s
  | .name mask => Sys2Proof.Machine.execName mask s
  | .tick => Sys2Proof.Machine.execTick s
  | .close => Sys2Proof.Machine.execClose s
  | .lcdboot => Sys2Proof.Machine.execLcdboot s

end Sys2Proof.Machine
end

