-- ==== Sys2Proof/Machine/Fetch.lean ====
section
/-!
DEFINITION. Taking the next operation of the stream (30_encoding.md R78 to R80, 10_state.md R31), and placing one there.
-/

namespace Sys2Proof.Machine

/-- R80: the decoder's refusal as the machine's. -/
def refusalOf : DecodeError → Refusal
  | .reservedOpcode op offset => .reservedOpcode op offset
  | .truncated offset => .truncated offset

/-- The operation the stream holds next, and the state with its bytes taken. -/
def fetch (s : State) : Except DecodeError (Instr × State) :=
  match decodeOne s.offset s.input with
  | .ok (i, rest) => .ok (i, { s with input := rest, offset := s.offset + (s.input.length - rest.length) })
  | .error e => .error e

/-- The state whose next step performs the operation that `bytes` encode. -/
def placeNext (bytes : List Byte) (s : State) : State := { s with seq := .between, queued := [], input := bytes }

end Sys2Proof.Machine
end

