-- ==== Sys2Proof/Machine/Step.lean ====
section
/-!
DEFINITION. One step: the operation in progress goes on (10_state.md R31); or, between operations, the next operation is performed
(20_memory.md R55), one that waits before one of the stream; or, with none issued, the block waits (70_reset_and_hazards.md R158).
-/

namespace Sys2Proof.Machine

def step (s : State) : Host.Outcome State Fault Refusal :=
  match s.seq with
  | .running _ => .next (resume s)
  | .between =>
    match s.queued with
    | i :: queued => exec i { s with queued := queued }
    | [] =>
      match s.input with
      | [] => .next s
      | _ :: _ =>
        match fetch s with
        | .ok (i, s') => exec i s'
        | .error e => .refused (refusalOf e)

/-- `s` with the instruction of an opcode-table word issued as the stream's next operation (entry 7). -/
def State.withFetchWord (s : State) (nbits w : Nat) : State := placeNext (tableBytes nbits w) s

end Sys2Proof.Machine
end

