-- ==== Sys2Proof/Machine/Asm.lean ====
section
/-!
DEFINITION. The assembler text of 30_encoding.md R83: one operation a line, operands separated by commas, byte literals in hex, decimal or
binary, blobs as lists or strings, comments from a semicolon, colour names for BACKLIGHT, and the pseudo-instruction of R84. What the
rule leaves open is in entry 17.
-/

namespace Sys2Proof.Machine

/-! ### Tokens -/

/-- A token of a line. -/
inductive Token
  /-- a mnemonic, a colour name or a byte literal, as its characters -/
  | word (cs : List Char)
  /-- a string literal's bytes -/
  | str (bs : List Byte)
  | comma
  | openList
  | closeList
deriving DecidableEq, Repr

/-- Where the lexer is. -/
inductive LexMode
  | gap
  | word (cs : List Char)
  | str (bs : List Byte)
  | escape (bs : List Byte)
  | comment
  | bad
deriving DecidableEq, Repr

/-- A letter or a digit. -/
def wordChar (c : Char) : Bool := c.isAlpha || c.isDigit

/-- The tokens a character outside words and strings gives, and where the lexer is after it. The codes are those of space, tab, carriage
return, comma, the two square brackets, the double quote and the semicolon. -/
def lexStart (c : Char) : List Token × LexMode :=
  if c.toNat = 0x20 ∨ c.toNat = 0x09 ∨ c.toNat = 0x0D then ([], .gap)
  else if c.toNat = 0x2C then ([.comma], .gap)
  else if c.toNat = 0x5B then ([.openList], .gap)
  else if c.toNat = 0x5D then ([.closeList], .gap)
  else if c.toNat = 0x22 then ([], .str [])
  else if c.toNat = 0x3B then ([], .comment)
  else if wordChar c then ([], .word [c])
  else ([], .bad)

/-- One character: the tokens it ends or is, and where the lexer is after it. A string holds ASCII bytes; its one escape is `\n`. -/
def lexChar (m : LexMode) (c : Char) : List Token × LexMode :=
  match m with
  | .gap => lexStart c
  | .word cs => if wordChar c then ([], .word (cs ++ [c])) else (.word cs :: (lexStart c).1, (lexStart c).2)
  | .str bs =>
    if c.toNat = 0x22 then ([.str bs], .gap)
    else if c.toNat = 0x5C then ([], .escape bs)
    else if c.toNat < 0x80 then ([], .str (bs ++ [BitVec.ofNat 8 c.toNat]))
    else ([], .bad)
  | .escape bs => if c = 'n' then ([], .str (bs ++ [0x0A])) else ([], .bad)
  | .comment => ([], .comment)
  | .bad => ([], .bad)

/-- The tokens of a line, or none where it does not read. -/
def lex : LexMode → List Char → Option (List Token)
  | .word cs, [] => some [.word cs]
  | .gap, [] => some []
  | .comment, [] => some []
  | .str _, [] => none
  | .escape _, [] => none
  | .bad, [] => none
  | m, c :: rest => (lex (lexChar m c).2 rest).map fun ts => (lexChar m c).1 ++ ts

/-! ### Operands -/

/-- The value of a digit in a base of at most 16. -/
def digitValue (radix : Nat) (c : Char) : Option Nat :=
  let d := if c.isDigit then c.toNat - 48 else if c.isLower then c.toNat - 87 else c.toNat - 55
  if (c.isDigit || c.isAlpha) && d < radix then some d else none

/-- The number that digits write, after the value `acc`. -/
def digitsValue (radix acc : Nat) : List Char → Option Nat
  | [] => some acc
  | c :: cs =>
    match digitValue radix c with
    | some d => digitsValue radix (acc * radix + d) cs
    | none => none

/-- R83: a byte literal: `0xHH`, `0bBBBBBBBB` or decimal. DESIGN CHOICE, safe (entry 17): a literal may have any number of digits, one at least,
as long as its value is below 256; R83 writes two hex and eight binary digits and shows `0x1`. -/
def byteLiteral (cs : List Char) : Option Byte :=
  let value :=
    match cs with
    | '0' :: 'x' :: d :: ds => digitsValue 16 0 (d :: ds)
    | '0' :: 'b' :: d :: ds => digitsValue 2 0 (d :: ds)
    | d :: ds => digitsValue 10 0 (d :: ds)
    | [] => none
  match value with
  | some n => if n < 256 then some (BitVec.ofNat 8 n) else none
  | none => none

/-- R83: the colour names. -/
def colourName (cs : List Char) : Option Byte :=
  if cs = "OFF".toList then some 0
  else if cs = "RED".toList then some 1
  else if cs = "GREEN".toList then some 2
  else if cs = "YELLOW".toList then some 3
  else if cs = "BLUE".toList then some 4
  else if cs = "VIOLET".toList then some 5
  else if cs = "TEAL".toList then some 6
  else if cs = "WHITE".toList then some 7
  else if cs = "ON".toList then some 7
  else none

/-- The bytes of a list after its opening bracket, up to its closing bracket at the line's end. -/
def listBytes : List Token → Option (List Byte)
  | [.word w, .closeList] => (byteLiteral w).map fun b => [b]
  | .word w :: .comma :: rest =>
    match byteLiteral w, listBytes rest with
    | some b, some bs => some (b :: bs)
    | _, _ => none
  | _ => none

/-- R83: a blob operand: a list of bytes, or a string. -/
def blobOperand : List Token → Option (List Byte)
  | [.str bs] => some bs
  | [.openList, .closeList] => some []
  | .openList :: rest => listBytes rest
  | _ => none

/-- R83: a byte operand. -/
def byteOperand : List Token → Option Byte
  | [.word w] => byteLiteral w
  | _ => none

/-- R83: BACKLIGHT's operand: a byte literal or a colour name. -/
def colourOperand : List Token → Option Byte
  | [.word w] =>
    match colourName w with
    | some b => some b
    | none => byteLiteral w
  | _ => none

/-- An operation without operands. -/
def noOperand (i : Instr) : List Token → Option Instr
  | [] => some i
  | _ => none

/-- R83, R112: CREATECHAR's two operands. -/
def slotAndPattern : List Token → Option Instr
  | .word w :: .comma :: rest =>
    match byteLiteral w, blobOperand rest with
    | some slot, some pat => some (.createchar slot pat)
    | _, _ => none
  | _ => none

/-! ### Lines and programs -/

/-- R83: the operation of a mnemonic and its operand tokens. -/
def assembleOp (m : List Char) (ts : List Token) : Option Instr :=
  if m = "INIT".toList then noOperand .init ts
  else if m = "INSTR".toList then (byteOperand ts).map .instr
  else if m = "DATA".toList then (byteOperand ts).map .data
  else if m = "INSTRS".toList then (blobOperand ts).map .instrs
  else if m = "DATAS".toList then (blobOperand ts).map .datas
  else if m = "CLEAR".toList then noOperand .clear ts
  else if m = "HOME".toList then noOperand .home ts
  else if m = "BACKLIGHT".toList then (colourOperand ts).map .backlight
  else if m = "CREATECHAR".toList then slotAndPattern ts
  else if m = "TEXT".toList then (blobOperand ts).map .text
  else if m = "TEXTC".toList then (blobOperand ts).map .textc
  else if m = "SAMPLE".toList then noOperand .sample ts
  else if m = "NAME".toList then (byteOperand ts).map .name
  else if m = "TICK".toList then noOperand .tick ts
  else if m = "CLOSE".toList then noOperand .close ts
  else if m = "LCDBOOT".toList then noOperand .lcdboot ts
  else none

/-- R83: a line: no operation (blank, or a comment alone), or one; none where the line does not read. DESIGN CHOICE, safe (entry 17): none too where
the operation fails R86 `BlobLen`, its blob being longer than a u16 can say; R83 does not speak of such a text. -/
def assembleLine (line : List Char) : Option (List Instr) :=
  match lex .gap line with
  | some [] => some []
  | some (.word m :: ts) => ((assembleOp m ts).filter Instr.wf).map fun i => [i]
  | some _ => none
  | none => none

/-- The lines of a text, split at the newline character. -/
def textLinesOf : List Char → List (List Char)
  | [] => [[]]
  | c :: cs =>
    if c.toNat = 0x0A then [] :: textLinesOf cs
    else
      match textLinesOf cs with
      | l :: ls => (c :: l) :: ls
      | [] => [[c]]

/-- The operations of a list of lines. -/
def assembleLines : List (List Char) → Option (List Instr)
  | [] => some []
  | l :: ls =>
    match assembleLine l, assembleLines ls with
    | some is, some rest => some (is ++ rest)
    | _, _ => none

/-- R83: the operations of a program text. -/
def assemble (program : String) : Option (List Instr) := assembleLines (textLinesOf program.toList)

/-- R78, R83, R84: the bytes of a program text; LCDBOOT is written as its expansion. -/
def assembleBytes (program : String) : Option (List Byte) := (assemble program).map fun is => is.flatMap encode

end Sys2Proof.Machine
end

