-- ==== Sys2Proof/Machine/Construct.lean ====
section
/-!
DEFINITION. Construction (40_register_model.md R97): the checks of 00_scope.md R10, ConfigurationError (60_exceptions.md R141), the
creation of the state, and the construction INIT.
-/

namespace Sys2Proof

/-! ### Well-formed configurations -/

/-- A byte with exactly one bit set. -/
def singleBit (m : Byte) : Bool := m != 0 && m &&& (m - 1) == 0

/-- The PORTB pin masks of R10 (a). -/
def Config.portbMasks (cfg : Config) : List Byte :=
  [cfg.pinRS, cfg.pinRW, cfg.pinE, cfg.pinD4, cfg.pinD5, cfg.pinD6, cfg.pinD7, cfg.pinBlue]

/-- R10 (a): the eight PORTB masks are single distinct bits that together cover 0xFF. -/
def Config.portbPinsOk (cfg : Config) : Bool :=
  cfg.portbMasks.all singleBit && cfg.portbMasks.Nodup && cfg.portbMasks.foldl (· ||| ·) 0 == 0xFF

/-- R10 (b): red and green are distinct single bits outside `BUTTON_MASK`. -/
def Config.colourPinsOk (cfg : Config) : Bool :=
  singleBit cfg.pinRed && singleBit cfg.pinGreen && cfg.pinRed != cfg.pinGreen &&
    (cfg.pinRed ||| cfg.pinGreen) &&& cfg.buttonMask == 0

/-- R10 (c): `DDRB_D7_DIR` and `BUSY_MASK` are single bits. -/
def Config.directionBitsOk (cfg : Config) : Bool := singleBit cfg.ddrbD7Dir && singleBit cfg.busyMask

/-- R10 (d): `BATCH_MAX` is a positive multiple of 4. -/
def Config.batchMaxOk (cfg : Config) : Bool := 0 < cfg.batchMax && cfg.batchMax % 4 == 0

/-- R9: `INIT_BLOCK` has 22 bytes (entry 15). -/
def Config.initBlockOk (cfg : Config) : Bool := cfg.initBlock.length == 22

/-- R104: a bound L is at least 1 (entry 15). -/
def Config.pollLimitOk (cfg : Config) : Bool :=
  match cfg.pollLimit with
  | none => true
  | some l => 1 ≤ l

/-- The first check of the model's own that a configuration fails (I16, entry 15). DESIGN CHOICE, safe (entry 22): the order in which they are
tried. -/
def Config.firstFailure (cfg : Config) : Option Machine.ConfigCheck :=
  if !cfg.portbPinsOk then some .portbPins
  else if !cfg.colourPinsOk then some .colourPins
  else if !cfg.directionBitsOk then some .directionBits
  else if !cfg.batchMaxOk then some .batchMax
  else if !cfg.initBlockOk then some .initBlockLength
  else if !cfg.pollLimitOk then some .pollLimit
  else none

/-- R10: the configuration is well formed. -/
def Config.wf (cfg : Config) : Bool := cfg.firstFailure.isNone

end Sys2Proof

namespace Sys2Proof.Machine

/-! ### Construction -/

/-- The constructor's arguments as the host gives them, before any check. -/
structure CtorArgs where
  /-- `BUS_ID`, none where the host's value is not an integer -/
  busId : Option Int
  /-- `DEV_ADDR` -/
  devAddr : Nat
  /-- `INTERVAL` -/
  interval : Int
  /-- the other parameters of R9 -/
  params : Config
deriving DecidableEq, Repr

/-- R141: the first constructor argument that raises ConfigurationError. DESIGN CHOICE, safe (entry 22): where several fail, the one named is
BUS_ID before DEV_ADDR before INTERVAL; R10, R97 and R141 give no order. -/
def badParam (a : CtorArgs) : Option ConfigParam :=
  if a.busId = none then some .busId
  else if 128 ≤ a.devAddr then some .devAddr
  else if a.interval < 0 then some .interval
  else none

/-- The configuration of arguments that pass R141's checks. -/
def CtorArgs.config (a : CtorArgs) : Config :=
  { a.params with
    busId := a.busId.getD 0
    devAddr := BitVec.ofNat 7 a.devAddr
    interval := a.interval.toNat }

/-- R97: construction: ConfigurationError before any bus I/O, the model's refusal of an ill-formed configuration (R10), else a created
state on which INIT is performed, with the answers `env` of the environment. DESIGN CHOICE, safe (entry 22): where R141's checks and R10 (a) to
(d) both fail, it is ConfigurationError; the spec gives no order. -/
def construct (a : CtorArgs) (env : List Answer) : Host.Outcome State Fault Refusal :=
  match badParam a with
  | some p => .fault (.configurationError p)
  | none =>
    match a.config.firstFailure with
    | some c => .refused (.illFormedConfig c)
    | none => execInit { State.created a.config with env := env }

end Sys2Proof.Machine
end

