-- ==== Sys2Proof/Machine/Device.lean ====
section
/-!
DEFINITION. The devices behind `DEV_ADDR` as OBSERVERS of the transaction list. They are external (00_scope.md R6 (b)): no step of the
block reads them, and their answers stay free (10_state.md R38). The spec gives their register maps, configuration fields and
instruction classes from general knowledge, and they are modelled here so that claims about the pins can be stated (entry 16):
the expander (10_state.md R35 to R37, 20_memory.md R42, R46, R47, R60) and the HD44780 (R39, 30_encoding.md R67 to R77, R61, R170, R171, 42_backlight_buttons.md R120).
-/

namespace Sys2Proof.Machine

/-! ### The expander's registers -/

/-- R35, R46, R47: the expander's registers by name. -/
inductive ExpanderReg
  | iodira
  | iodirb
  | ipola
  | ipolb
  | gpintena
  | gpintenb
  | defvala
  | defvalb
  | intcona
  | intconb
  | iocon
  | gppua
  | gppub
  | intfa
  | intfb
  | intcapa
  | intcapb
  | gpioa
  | gpiob
  | olata
  | olatb
deriving DecidableEq, Repr

/-- R35, R46: the register map in bank 0, addresses 0x00 to 0x15. -/
def bank0Map : List ExpanderReg :=
  [.iodira, .iodirb, .ipola, .ipolb, .gpintena, .gpintenb, .defvala, .defvalb, .intcona, .intconb, .iocon,
   .iocon, .gppua, .gppub, .intfa, .intfb, .intcapa, .intcapb, .gpioa, .gpiob, .olata, .olatb]

/-- R47: port A's registers in bank 1, addresses 0x00 to 0x0A. -/
def bank1MapA : List ExpanderReg :=
  [.iodira, .ipola, .gpintena, .defvala, .intcona, .iocon, .gppua, .intfa, .intcapa, .gpioa, .olata]

/-- R47: port B's registers in bank 1, addresses 0x10 to 0x1A. -/
def bank1MapB : List ExpanderReg :=
  [.iodirb, .ipolb, .gpintenb, .defvalb, .intconb, .iocon, .gppub, .intfb, .intcapb, .gpiob, .olatb]

/-- R46, R47: the register at an address; none where it is unimplemented. -/
def registerAt (bank1 : Bool) (addr : Byte) : Option ExpanderReg :=
  if bank1 then (if addr < 0x10 then bank1MapA[addr.toNat]? else bank1MapB[addr.toNat - 16]?) else bank0Map[addr.toNat]?

/-- R36: IOCON's BANK field: the two ports' registers are in separate banks. -/
def ioconBank (iocon : Byte) : Bool := iocon.getLsbD 7

/-- R36: IOCON's MIRROR field. -/
def ioconMirror (iocon : Byte) : Bool := iocon.getLsbD 6

/-- R36: IOCON's SEQOP field: the address pointer does not increment. -/
def ioconSeqop (iocon : Byte) : Bool := iocon.getLsbD 5

/-- R36: IOCON's DISSLW field. -/
def ioconDisslw (iocon : Byte) : Bool := iocon.getLsbD 4

/-- R36: IOCON's HAEN field. -/
def ioconHaen (iocon : Byte) : Bool := iocon.getLsbD 3

/-- R36: IOCON's ODR field. -/
def ioconOdr (iocon : Byte) : Bool := iocon.getLsbD 2

/-- R36: IOCON's INTPOL field. -/
def ioconIntpol (iocon : Byte) : Bool := iocon.getLsbD 1

/-- R37: what the expander holds: its writable registers and its address pointer. -/
structure Expander where
  iodira : Byte
  iodirb : Byte
  ipola : Byte
  ipolb : Byte
  gpintena : Byte
  gpintenb : Byte
  defvala : Byte
  defvalb : Byte
  intcona : Byte
  intconb : Byte
  iocon : Byte
  gppua : Byte
  gppub : Byte
  olata : Byte
  olatb : Byte
  pointer : Byte
deriving DecidableEq, Repr

/-- R35: what a write to a register changes; INTF and INTCAP are read-only, and GPIO writes the output latch. DESIGN CHOICE (entry 28), unsafe for
claims about that bit: IOCON keeps bit 0 as written, though R36 only calls the bit unimplemented. -/
def Expander.store (e : Expander) (v : Byte) : ExpanderReg → Expander
  | .iodira => { e with iodira := v }
  | .iodirb => { e with iodirb := v }
  | .ipola => { e with ipola := v }
  | .ipolb => { e with ipolb := v }
  | .gpintena => { e with gpintena := v }
  | .gpintenb => { e with gpintenb := v }
  | .defvala => { e with defvala := v }
  | .defvalb => { e with defvalb := v }
  | .intcona => { e with intcona := v }
  | .intconb => { e with intconb := v }
  | .iocon => { e with iocon := v }
  | .gppua => { e with gppua := v }
  | .gppub => { e with gppub := v }
  | .intfa => e
  | .intfb => e
  | .intcapa => e
  | .intcapb => e
  | .gpioa => { e with olata := v }
  | .gpiob => { e with olatb := v }
  | .olata => { e with olata := v }
  | .olatb => { e with olatb := v }

/-- R36, R42: after a byte the pointer goes to the next register unless SEQOP is set. DESIGN CHOICE (entry 25), unsafe for claims about an access
that goes past the map: beyond the last register it goes to the next address, modulo 256; R36, R42, R46 and R47 do not say. -/
def Expander.advance (e : Expander) : Expander :=
  if ioconSeqop e.iocon then e else { e with pointer := e.pointer + 1 }

/-- R42: one data byte reaches the register the pointer is at. DESIGN CHOICE (entry 25), unsafe for claims about such a write: at an unimplemented
address the byte changes no register and the pointer goes on, since the spec only calls those addresses unimplemented (R47); and after a byte that
itself writes IOCON the NEW SEQOP decides whether the pointer moves, and the pointer keeps its number when BANK changes, on which R36, R42 and
40_register_model.md R95 are silent. DESIGN CHOICE (entry 29), unsafe for claims about such an INIT: the writes of an INIT that starts in bank 0 with
SEQOP = 1 are followed byte by byte too, to one definite configuration, which I11 leaves open ("any value"). -/
def Expander.writeByte (e : Expander) (v : Byte) : Expander :=
  match registerAt (ioconBank e.iocon) e.pointer with
  | some r => (e.store v r).advance
  | none => e.advance

/-- R42, R43, R44: the effect of a transaction that reaches the device whole. A bare write or read is at the pointer (R37, PRESUMED). -/
def Expander.apply (cfg : Config) (e : Expander) : Tx → Expander
  | .wr reg bytes => bytes.foldl Expander.writeByte { e with pointer := reg.addr cfg }
  | .w1 b => e.writeByte b
  | .rr reg => Expander.advance { e with pointer := reg.addr cfg }
  | .r0 => e.advance

/-- R56: the effect of a list of transactions, in order. -/
def Expander.run (cfg : Config) (e : Expander) (ts : List Tx) : Expander := ts.foldl (Expander.apply cfg) e

/-- R60: the states the expander passes through as bytes reach it, one after each. -/
def Expander.writeAll (e : Expander) : List Byte → List Expander
  | [] => []
  | v :: vs => e.writeByte v :: (e.writeByte v).writeAll vs

/-- The states the expander passes through in a transaction, one after each byte written. -/
def Expander.during (cfg : Config) (e : Expander) : Tx → List Expander
  | .wr reg bytes => { e with pointer := reg.addr cfg }.writeAll bytes
  | .w1 b => [e.writeByte b]
  | .rr _ => []
  | .r0 => []

/-- R54, R56: the states it passes through in a list of transactions. -/
def Expander.history (cfg : Config) (e : Expander) : List Tx → List Expander
  | [] => []
  | t :: ts => e.during cfg t ++ (e.apply cfg t).history cfg ts

/-- R137, R138, R171: what reached the device of a transaction answered `error`, `n` bytes of it, the register address being the first (which `n`
is unknown to the block). -/
def Tx.reached (n : Nat) (t : Tx) : List Tx :=
  match n, t with
  | 0, _ => []
  | k + 1, .wr reg bytes => [.wr reg (bytes.take k)]
  | _ + 1, .w1 b => [.w1 b]
  | _ + 1, .rr reg => [.rr reg]
  | _ + 1, .r0 => [.r0]

/-- R95: a device state from which INIT works: bank 0 with sequential addressing, or as INIT leaves it, bank 1 without. From
bank 0 without it the configuration INIT leaves is open (I11); what the observer gives there is the model's choice (entry 29). -/
def Expander.goodForInit (e : Expander) : Bool := ioconBank e.iocon == ioconSeqop e.iocon

/-! ### The HD44780's instruction bytes -/

/-- R68 to R75: the classes of instruction bytes and their fields. -/
inductive LcdClass
  /-- R68 -/
  | clearDisplay
  /-- R69 -/
  | returnHome
  /-- R70 -/
  | entryMode (increment shift : Bool)
  /-- R71 -/
  | displayControl (displayOn cursorOn blinkOn : Bool)
  /-- R72 -/
  | cursorOrShift (shiftDisplay right : Bool)
  /-- R73 -/
  | functionSet (eightBit twoLines font5x10 : Bool)
  /-- R74 -/
  | setCgram (addr : BitVec 6)
  /-- R75 -/
  | setDdram (addr : BitVec 7)
deriving DecidableEq, Repr

/-- R67 to R76: the class of an instruction byte, by its highest set bit; 0x00 is in none. -/
def lcdClass (b : Byte) : Option LcdClass :=
  if b.getLsbD 7 then some (.setDdram (b.extractLsb' 0 7))
  else if b.getLsbD 6 then some (.setCgram (b.extractLsb' 0 6))
  else if b.getLsbD 5 then some (.functionSet (b.getLsbD 4) (b.getLsbD 3) (b.getLsbD 2))
  else if b.getLsbD 4 then some (.cursorOrShift (b.getLsbD 3) (b.getLsbD 2))
  else if b.getLsbD 3 then some (.displayControl (b.getLsbD 2) (b.getLsbD 1) (b.getLsbD 0))
  else if b.getLsbD 2 then some (.entryMode (b.getLsbD 1) (b.getLsbD 0))
  else if b.getLsbD 1 then some .returnHome
  else if b.getLsbD 0 then some .clearDisplay
  else none

/-! ### What the controller latches -/

/-- R22: the level the controller takes from the line at `pin` when port B's latch goes from `old` to `new` and E falls: the latch's, where the line
is an output (R24: a 0 in IODIRB, `dirs`) and does not move with E; else a free value (entry 27). -/
def lineAtEdge (old new dirs pin : Byte) : Bool :=
  if anyBit old pin = anyBit new pin ∧ anyBit dirs pin = false then anyBit new pin else Config.openLine pin old new

/-- R63: the 4 bits on the data lines at that edge. -/
def dataAtEdge (cfg : Config) (old new dirs : Byte) : BitVec 4 :=
  (if lineAtEdge old new dirs cfg.pinD4 then 1 else 0) ||| (if lineAtEdge old new dirs cfg.pinD5 then 2 else 0) |||
    (if lineAtEdge old new dirs cfg.pinD6 then 4 else 0) ||| (if lineAtEdge old new dirs cfg.pinD7 then 8 else 0)

/-- R22: the strobe that a 1-to-0 change of E makes. -/
def edgeStrobe (cfg : Config) (old new dirs : Byte) : Strobe :=
  if lineAtEdge old new dirs cfg.pinRW then .read (lineAtEdge old new dirs cfg.pinRS)
  else .write (lineAtEdge old new dirs cfg.pinRS) (dataAtEdge cfg old new dirs)

/-- R22, R54, R171: the strobes made as the expander passes from `e` through the states after it: one at each 1-to-0 change of E in port B's
latch. -/
def strobesFrom (cfg : Config) (e : Expander) : List Expander → List Strobe
  | [] => []
  | e' :: es =>
    (if anyBit e.olatb cfg.pinE && !anyBit e'.olatb cfg.pinE then [edgeStrobe cfg e.olatb e'.olatb e'.iodirb] else []) ++
      strobesFrom cfg e' es

/-- R54, R120, R171: the strobes that reach the controller from transactions, INIT's writes of port B (R35) among them (entry 23), the expander being
in the state `e` before them. -/
def strobes (cfg : Config) (e : Expander) (ts : List Tx) : List Strobe := strobesFrom cfg e (e.history cfg ts)

/-- R39, R50, R77: what two strobes that the controller pairs make: two writes a byte, the high nibble first; two reads a status read, of which it
receives nothing; any other two a free value (entry 26). -/
def strobePair (first second : Strobe) : Option LcdByte :=
  match first, second with
  | .read rs, .read rs' => if rs = rs' then none else Config.mixedStrobes first second
  | .write rs hi, .write rs' lo => if rs = rs' then some { rs := rs, val := hi ++ lo } else Config.mixedStrobes first second
  | .read _, .write _ _ => Config.mixedStrobes first second
  | .write _ _, .read _ => Config.mixedStrobes first second

/-- R39, R171: in 4-bit mode each transfer is two strobes, so the strobes are paired in order, reads and writes alike; after an odd number of them
every later pair is one nibble off. A strobe that has no second yet is half a transfer. -/
def pairStrobes : List Strobe → List LcdByte
  | first :: second :: rest => (strobePair first second).toList ++ pairStrobes rest
  | [_] => []
  | [] => []

/-- R39, R54: the bytes a controller in phase receives from transactions, the expander being in the state `e` before them. Where one of them was cut
(`Tx.reached`), those after it may be received one nibble off (R171). -/
def lcdReceives (cfg : Config) (e : Expander) (ts : List Tx) : List LcdByte := pairStrobes (strobes cfg e ts)

/-- R61, R170: the target after a received byte: SET CGRAM ADDRESS selects CGRAM; clear, home and SET DDRAM ADDRESS select DDRAM. After 0x00, which
is in no class (R76, I5), it is a free value (entry 24). -/
def LcdTarget.after (t : LcdTarget) (b : LcdByte) : LcdTarget :=
  if b.rs then t
  else
    match lcdClass b.val with
    | some (.setCgram _) => .cgram
    | some (.setDdram _) => .ddram
    | some .clearDisplay => .ddram
    | some .returnHome => .ddram
    | some (.entryMode _ _) => t
    | some (.displayControl _ _ _) => t
    | some (.cursorOrShift _ _) => t
    | some (.functionSet _ _ _) => t
    | none => Config.targetAfterZero t

/-! ### The status read -/

/-- R77: the pins of port B during a poll's first strobe: D7..D4 carry the first nibble of the status byte, BF first; the other pins hold
`others`, any value (I4). -/
def statusPins (cfg : Config) (status others : Byte) : Byte :=
  flipTable cfg (highNibble status) ||| (others &&& ~~~(cfg.pinD4 ||| cfg.pinD5 ||| cfg.pinD6 ||| cfg.pinD7))

end Sys2Proof.Machine
end

