-- ==== Sys2Proof/Safety.lean ====
section
/-!
DEFINITION. The terms claims use: answers that let an operation complete, the bytes and transactions of a busy poll, what an operation
leaves, the invariant of the machine, and the agreement of the shadows with the expander's latches.
-/

namespace Sys2Proof

/-- R38: the answer is not `error`. -/
def Answer.isOk : Answer → Bool
  | .ok _ => true
  | .error => false

/-- Every answer is ok. -/
def allOk (as : List Answer) : Bool := as.all Answer.isOk

/-- A configuration whose INIT values agree with the invariants of R98: PORTA's own bits alone are raised, E is low, and no direction
bit but D7's is set. The defaults are sane. -/
def Config.sane (cfg : Config) : Bool :=
  cfg.wf && cfg.portaInit &&& ~~~(cfg.pinRed ||| cfg.pinGreen) == 0 && cfg.portbInit &&& cfg.pinE == 0 &&
    cfg.ddrbInit &&& ~~~cfg.ddrbD7Dir == 0

/-- R99: the LCD operations. -/
def Instr.isLcd : Instr → Bool
  | .instr _ => true
  | .data _ => true
  | .instrs _ => true
  | .datas _ => true
  | .clear => true
  | .home => true
  | .createchar _ _ => true
  | .text _ => true
  | .textc _ => true
  | .init => false
  | .backlight _ => false
  | .sample => false
  | .name _ => false
  | .tick => false
  | .close => false
  | .lcdboot => false

/-- R143: the operations that raise NotInitialized before INIT, whatever the notifier's state. -/
def Instr.needsReady : Instr → Bool
  | .instr _ => true
  | .data _ => true
  | .instrs _ => true
  | .datas _ => true
  | .clear => true
  | .home => true
  | .createchar _ _ => true
  | .text _ => true
  | .textc _ => true
  | .backlight _ => true
  | .sample => true
  | .init => false
  | .name _ => false
  | .tick => false
  | .close => false
  | .lcdboot => false

end Sys2Proof

namespace Sys2Proof.Machine

/-! ### Start states and end states -/

/-- Between operations, after a successful INIT, with D7 an output. -/
def ReadyIdle (s : State) : Prop :=
  s.seq = .between ∧ s.block.ready = true ∧ displayState s.cfg s.block = .idle

/-- Between operations, after a successful INIT, with D7 an input: the next LCD operation polls. -/
def ReadyPolling (s : State) : Prop :=
  s.seq = .between ∧ s.block.ready = true ∧ displayState s.cfg s.block = .commandPolling

/-- `s` after an operation of the Host that left the block state `blk`, emitted `txs`, returned `r` and left the answers `rest`. -/
def State.finished (s : State) (blk : Block) (txs : List Tx) (r : OpResult) (rest : List Answer) : State :=
  { s with block := blk, seq := .between, env := rest, trace := s.trace ++ txs, results := s.results ++ [r] }

/-- The same for a TICK, whose result goes to the event port (entry 11). -/
def State.ticked (s : State) (blk : Block) (txs : List Tx) (r : OpResult) (rest : List Answer) : State :=
  { s with block := blk, seq := .between, env := rest, trace := s.trace ++ txs, events := s.events ++ [r] }

/-- The WR to GPIOB that carries one frame or one batch. -/
def frameTx (bs : List Byte) : Tx := .wr .gpiob bs

/-- S after WRs of frames have been answered ok. -/
def afterFrames (blk : Block) (wrs : List (List Byte)) : Block := wrs.foldl (fun b bs => setPortB bs b) blk

/-- An operation's result as the result of an operation of which it is the end, `n` transactions having come before it: a TransportError's
index counts those too (R135). -/
def OpResult.after (n : Nat) : OpResult → OpResult
  | .err (.transportError x k) => .err (.transportError x (k + n))
  | .err (.protocolUsageError c v) => .err (.protocolUsageError c v)
  | .err .notInitialized => .err .notInitialized
  | .err (.busyTimeout l) => .err (.busyTimeout l)
  | .ok v => .ok v

/-! ### The busy poll -/

/-- R101: the transactions of SETUP and of n iterations. -/
def pollTxs (lo hi : Byte) (n : Nat) : List Tx :=
  .wr .gpiob [lo] :: (List.replicate n [Tx.w1 hi, Tx.r0, Tx.wr .gpiob [lo, hi, lo]]).flatten

/-- The answers to SETUP and to one iteration for each byte of `reads`, every write being answered `ok` with the idle byte `d`. -/
def pollAnswers (d : Byte) (reads : List Byte) : List Answer :=
  .ok d :: reads.flatMap fun r => [.ok d, .ok r, .ok d]

/-- A read list that ends a poll: busy bytes, then one that is not, within the bound `POLL_LIMIT` (R101, R104). -/
def PollEnds (cfg : Config) (busy : List Byte) (r : Byte) : Prop :=
  (∀ x ∈ busy, busyFlag cfg x = true) ∧ busyFlag cfg r = false ∧ pollExpired cfg busy.length = false

/-- S after a poll that ended: D7 is an output and PORTB is at lo. -/
def afterPoll (cfg : Config) (blk : Block) : Block :=
  { blk with portb := pollLo cfg blk, ddrb := blk.ddrb &&& ~~~cfg.ddrbD7Dir }

/-- The transactions of a whole poll of n iterations, EXIT included. -/
def wholePoll (cfg : Config) (blk : Block) (n : Nat) : List Tx :=
  pollTxs (pollLo cfg blk) (pollHi cfg blk) n ++ [.wr .iodirb [blk.ddrb &&& ~~~cfg.ddrbD7Dir]]

/-- R171: the bytes read one nibble off: the low nibble of each with the high nibble of the next. -/
def oneNibbleOff : List Byte → List Byte
  | v :: w :: rest => (lowNibble v ++ highNibble w) :: oneNibbleOff (w :: rest)
  | [_] => []
  | [] => []

/-! ### The invariant -/

/-- E is low in a PORTB byte. -/
def eLow (cfg : Config) (b : Byte) : Prop := b &&& cfg.pinE = 0

/-- R98 (a): only red and green may be raised in PORTA. -/
def portaOk (cfg : Config) (v : Byte) : Prop := v &&& ~~~(cfg.pinRed ||| cfg.pinGreen) = 0

/-- R98 (b): no direction bit but D7's is set. -/
def ddrbOk (cfg : Config) (v : Byte) : Prop := v &&& ~~~cfg.ddrbD7Dir = 0

/-- What the engine holds ready to send is in keeping with R98 and R115. INIT's writes are no part of an operation after INIT. -/
def actOk (cfg : Config) (blk : Block) : Act → Prop
  | .busWR _ _ => False
  | .writeGpioA v => portaOk cfg v
  | .writeGpioB bs => bs ≠ [] ∧ (blk.stale = true ∨ eLow cfg (bs.getLastD 0))
  | .sendFrames bs => bs ≠ [] ∧ eLow cfg (bs.getLastD 0) ∧ displayState cfg blk = .idle
  | .setDirectionB v => ddrbOk cfg v
  | .pollSetup lo _ => eLow cfg lo
  | .pollStrobeHi lo _ _ => eLow cfg lo
  | .pollRead lo _ _ => eLow cfg lo
  | .pollStrobeRest lo _ _ _ => eLow cfg lo
  | .pollExit v => v = 0
  | .readButtons => True
  | .readTick => True

/-- D7 is known to be an output once the bus step, and the poll it belongs to, are done. -/
def idleAfter (cfg : Config) (blk : Block) : Act → Bool
  | .pollSetup _ _ => true
  | .pollStrobeHi _ _ _ => true
  | .pollRead _ _ _ => true
  | .pollStrobeRest _ _ _ _ => true
  | .pollExit _ => true
  | .setDirectionB _ => false
  | _ => displayState cfg blk == .idle

/-- Lines in which every frame comes after a prologue and before the next slow step (R100, R115 (b)), and none is INIT's. -/
def linesOk : Bool → List Line → Bool
  | _, [] => true
  | _, .prologue :: ls => linesOk true ls
  | idle, .emitByte _ _ :: ls => idle && linesOk idle ls
  | idle, .emitSeq _ _ :: ls => idle && linesOk idle ls
  | _, .slowStep _ :: ls => linesOk false ls
  | _, .enterInit :: _ => false
  | _, .busWR _ _ :: _ => false
  | _, .finishInit :: _ => false
  | idle, .requireReady :: ls => linesOk idle ls
  | idle, .requirePattern _ :: ls => linesOk idle ls
  | idle, .requireSlot _ :: ls => linesOk idle ls
  | idle, .colorA _ :: ls => linesOk idle ls
  | idle, .colorB _ :: ls => linesOk idle ls
  | idle, .sample :: ls => linesOk idle ls
  | idle, .tickGate :: ls => linesOk idle ls
  | idle, .tickSample :: ls => linesOk idle ls
  | idle, .close :: ls => linesOk idle ls
  | idle, .ret _ :: ls => linesOk idle ls

/-- The lines of INIT after one of its writes (R94): the writes to come, and its assignments last. -/
def initLines : List Line → Bool
  | [.finishInit] => true
  | .busWR _ _ :: ls => initLines ls
  | _ => false

/-- The bus step is one of frames. -/
def isFrames : Act → Bool
  | .sendFrames _ => true
  | _ => false

/-- The bus step is one during which the poll has left E high (R101). -/
def eMayBeHigh : Act → Bool
  | .pollRead _ _ _ => true
  | .pollStrobeRest _ _ _ _ => true
  | _ => false

/-- An operation in progress after INIT. -/
def runningOk (cfg : Config) (blk : Block) (r : Running) : Prop :=
  (∀ a ∈ r.act :: r.acts, actOk cfg blk a) ∧ (∀ a ∈ r.acts, isFrames a = true) ∧
    (r.acts ≠ [] → isFrames r.act = true) ∧ linesOk (idleAfter cfg blk r.act) r.lines = true ∧
    (blk.stale = true ∨ eLow cfg blk.portb ∨ eMayBeHigh r.act = true)

/-- INIT in progress: one of its writes awaits its answer. -/
def initRunning (r : Running) : Prop :=
  (∃ reg bs, r.act = .busWR reg bs) ∧ r.acts = [] ∧ initLines r.lines = true

/-- The sequencer's part of the invariant. -/
def seqOk (cfg : Config) (blk : Block) : Seq → Prop
  | .between => blk.ready = true → blk.stale = false → eLow cfg blk.portb
  | .running r => (blk.ready = true ∧ runningOk cfg blk r) ∨ (blk.ready = false ∧ initRunning r)

/-- The invariant of the machine (R24, R30, R98, R115, R126): after INIT PORTA raises red and green alone, DDRB only D7; between
operations E is low unless a transport error has left it high; a frame awaits its answer only while D7 is an output; the notifier's mask is a
button mask, and the notifier is armed only with an interval. -/
def Inv (s : State) : Prop :=
  s.cfg.sane = true ∧
    (s.block.ready = true → portaOk s.cfg s.block.porta ∧ ddrbOk s.cfg s.block.ddrb) ∧
    s.block.prevMask &&& ~~~s.cfg.buttonMask = 0 ∧
    (s.block.notifier = .armed → 0 < s.cfg.interval) ∧
    seqOk s.cfg s.block s.seq

/-! ### The shadows and the expander -/

/-- R98 (d): each shadow is what the expander's register holds, and the expander is in the mode INIT leaves (R37). -/
def ShadowsAgree (blk : Block) (e : Expander) : Prop :=
  ioconBank e.iocon = true ∧ ioconSeqop e.iocon = true ∧ e.olata = blk.porta ∧ e.olatb = blk.portb ∧ e.iodirb = blk.ddrb

/-- R37, R47: the expander is in the mode INIT leaves, and the registers an operation after INIT writes are at their addresses there. -/
def Mapped (cfg : Config) (e : Expander) : Prop :=
  ioconBank e.iocon = true ∧ ioconSeqop e.iocon = true ∧ registerAt true cfg.regGpioa = some .gpioa ∧
    registerAt true cfg.regIodirb = some .iodirb ∧ registerAt true cfg.regGpiob = some .gpiob

/-! ### Comparing runs -/

/-- The ghost flag set to `b`. -/
def State.withStale (s : State) (b : Bool) : State := { s with block := { s.block with stale := b } }

/-- The fields R40 gives no value before INIT, set to other values. -/
def State.withShadows (s : State) (pa pb dd pm : Byte) : State :=
  { s with block := { s.block with porta := pa, portb := pb, ddrb := dd, prevMask := pm } }

end Sys2Proof.Machine
end

