-- ==== Sys2Proof/Certificates/Slice0/Obligations.lean ====
section
/-!
DEFINITION. The statements about the machine, each a Prop. A docstring names the rules it formalises. "The environment's answers"
are those already given in `env`; a statement holds for every list of them.
-/

open Sys2Proof Sys2Proof.Machine

/-! ### Encoding -/

/-- R78, R87, 95_test_vectors.md V0: words of every family written out from the table decode to the operations they stand for, and the program
of R87 encodes to its bytes. -/
def Obligations.SpecWordsDecode : Prop :=
  [Instr.init, .instr 0x01, .datas [0x48, 0x69], .sample].flatMap encode =
      [0x10, 0x20, 0x01, 0x23, 0x00, 0x02, 0x48, 0x69, 0x70] ∧
  decodeAll [0x10, 0x20, 0x01, 0x23, 0x00, 0x02, 0x48, 0x69, 0x70] =
      .ok [.init, .instr 0x01, .datas [0x48, 0x69], .sample] ∧
    decodeAll [0x50, 0x03, 0x00, 0x08, 0x01, 0x02, 0x03, 0x04, 0x05, 0x06, 0x07, 0x08] =
      .ok [.createchar 0x03 [0x01, 0x02, 0x03, 0x04, 0x05, 0x06, 0x07, 0x08]] ∧
    decodeAll [0x71, 0x03, 0x81, 0x80, 0x30, 0x31] = .ok [.name 0x03, .close, .tick, .clear, .home] ∧
    decodeAll [0x40, 0x06, 0x61, 0x00, 0x05, 0x48, 0x69, 0x0A, 0x59, 0x6F] =
      .ok [.backlight 0x06, .textc [0x48, 0x69, 0x0A, 0x59, 0x6F]] ∧
    decodeAll [0x21, 0x41, 0x22, 0x00, 0x00, 0x60, 0x00, 0x01, 0x41] = .ok [.data 0x41, .instrs [], .text [0x41]] ∧
    decodeAll [0x90] = .error (.reservedOpcode 0x90 0) ∧
    decodeAll [0x23, 0x00, 0x05, 0x41] = .error (.truncated 4)

/-- R78, R79: an operation's bytes, followed by any others, decode to the operation and leave the others. -/
def Obligations.OperationRoundTrip : Prop :=
  ∀ (i : Instr) (offset : Nat) (rest : List Byte), i.wf = true → i.isCore = true →
    decodeOne offset (encode i ++ rest) = .ok (i, rest)

/-- R78, R79, R84: the bytes of every list of well-formed operations decode to that list, LCDBOOT as its expansion. -/
def Obligations.ProgramRoundTrip : Prop :=
  ∀ is : List Instr, (∀ i ∈ is, i.wf = true) → decodeAll (is.flatMap encode) = .ok (is.flatMap Instr.expand)

/-- R78, R79: bytes that decode to an operation are that operation's encoding, and the operation is well formed. -/
def Obligations.DecodedBytesAreTheEncoding : Prop :=
  ∀ (offset : Nat) (bs rest : List Byte) (i : Instr), decodeOne offset bs = .ok (i, rest) →
    i.wf = true ∧ i.isCore = true ∧ bs = encode i ++ rest

/-- R80: an opcode byte outside the table is refused by name, whatever follows it, and the machine's step refuses it so. That the offset named is
that of the opcode byte is the model's reading of R87 (entry 18, DEDUCED). -/
def Obligations.ReservedOpcodesRefused : Prop :=
  ∀ (s : State) (op : Byte) (rest : List Byte),
    op ∉ ([0x10, 0x20, 0x21, 0x22, 0x23, 0x30, 0x31, 0x40, 0x50, 0x60, 0x61, 0x70, 0x71, 0x80, 0x81] : List Byte) →
    s.seq = .between → s.queued = [] → s.input = op :: rest →
    decodeOne s.offset s.input = .error (.reservedOpcode op s.offset) ∧ step s = .refused (.reservedOpcode op s.offset)

/-- R80: a stream that ends inside an operand is refused as Truncated. That the offset named is the one where the stream ends is the model's
reading of R87 (entry 18, DEDUCED). -/
def Obligations.CutOperationsTruncated : Prop :=
  ∀ (i : Instr) (offset n : Nat), i.wf = true → i.isCore = true → 0 < n → n < (encode i).length →
    decodeOne offset ((encode i).take n) = .error (.truncated (offset + n))

/-! ### The step -/

/-- R31, R55, R78: when the stream's next bytes decode to an operation, a step between operations performs exactly it, with its bytes taken from
the stream. -/
def Obligations.StepRunsTheDecodedOperation : Prop :=
  ∀ (s : State) (i : Instr) (rest : List Byte), s.seq = .between → s.queued = [] → s.input ≠ [] →
    decodeOne s.offset s.input = .ok (i, rest) →
    step s = exec i { s with input := rest, offset := s.offset + (s.input.length - rest.length) }

/-- R31, R55, R158: between operations a waiting operation is performed before the stream is read; with none waiting and none issued the block
waits. While an operation is in progress a step reads no further operation and goes on with it: the given answers go to its transactions one by
one, and what is left is as if they had been given when it began; with none given, one answer is drawn (a free value, entry 5). An operation issued
then waits, changing nothing else. -/
def Obligations.StepWaitsOrGoesOn : Prop :=
  ∀ s : State,
    (∀ i is, s.seq = .between → s.queued = i :: is → step s = exec i { s with queued := is }) ∧
    (s.seq = .between → s.queued = [] → s.input = [] → step s = .next s) ∧
    (∀ r, s.seq = .running r → ∃ t, step s = .next t ∧ t.input = s.input ∧ t.queued = s.queued) ∧
    (∀ r a as, s.seq = .running r → s.env = a :: as → step s = .next (drain as (answer a r { s with env := [] }))) ∧
    (∀ r, s.seq = .running r → s.env = [] →
      step s = step (State.giveAnswers [Config.freeAnswer s.draws] { s with draws := s.draws + 1 })) ∧
    (∀ i u r bs, i ≠ .lcdboot → s.seq = .between → exec i s = .next u → u.seq = .running r → bs ≠ [] →
      step (u.giveAnswers bs) = exec i (s.giveAnswers bs)) ∧
    (∀ i r, s.seq = .running r → exec i s = .next { s with queued := s.queued ++ i.expand })

/-! ### Reset and the time before INIT -/

/-- R40, R158: what reset leaves in the fields the spec gives a value. -/
def Obligations.ResetValues : Prop :=
  State.reset.block.ready = false ∧ State.reset.block.stale = false ∧ State.reset.block.notifier = .unarmed ∧
    State.reset.seq = .between ∧ State.reset.trace = []

/-- R143, R145: before INIT every operation that needs it raises NotInitialized before any transaction and any other check, TICK only when
Armed; no state changes; INIT, NAME and CLOSE do not raise it. That TICK's results, Ok([]) too, go to the event port is the model's reading of
R134, R138 (d) and R150 (entry 11, DEDUCED). -/
def Obligations.NotInitializedBeforeInit : Prop :=
  ∀ s : State, s.seq = .between → s.block.ready = false →
    (∀ i, i.needsReady = true → exec i s = .next (s.finished s.block [] (.err .notInitialized) s.env)) ∧
    (s.block.notifier = .armed → exec .tick s = .next (s.ticked s.block [] (.err .notInitialized) s.env)) ∧
    (s.block.notifier ≠ .armed → exec .tick s = .next (s.ticked s.block [] (.ok (.events [])) s.env)) ∧
    (∀ i t, i = .init ∨ i = .close ∨ (∃ m, i = .name m) → exec i s = .next t →
      t.results ≠ s.results ++ [.err .notInitialized])

/-- R27, R40: no operation reads the fields that have no value before INIT: with other values in them it emits the same transactions and
gives the same results, and where it ends with INIT done the shadows are the same. (The values at reset are the model's choice, entries 2 and 3;
this says that none of them shows.) -/
def Obligations.ValuesBeforeInitNeverShow : Prop :=
  ∀ (i : Instr) (s t : State) (pa pb dd pm : Byte), s.seq = .between → s.block.ready = false → exec i s = .next t →
    ∃ t', exec i (s.withShadows pa pb dd pm) = .next t' ∧ t'.trace = t.trace ∧ t'.results = t.results ∧
      t'.events = t.events ∧ t'.env = t.env ∧ t'.seq = t.seq ∧ t'.block.ready = t.block.ready ∧
      (t.block.ready = true → t'.block.porta = t.block.porta ∧ t'.block.portb = t.block.portb ∧
        t'.block.ddrb = t.block.ddrb)

/-! ### INIT and construction -/

/-- R94, R133: INIT, from any state, with its three writes answered ok. -/
def Obligations.InitCompletes : Prop :=
  ∀ (s : State) (as rest : List Answer), s.seq = .between → s.env = as ++ rest → as.length = 3 → allOk as = true →
    exec .init s = .next (s.finished
      { porta := s.cfg.portaInit
        portb := s.cfg.portbInit
        ddrb := s.cfg.ddrbInit
        ready := true
        stale := false
        notifier := if 0 < s.cfg.interval ∧ s.block.notifier = .unarmed then .armed else s.block.notifier
        prevMask := if 0 < s.cfg.interval ∧ s.block.notifier = .unarmed then 0x00 else s.block.prevMask }
      [.wr .ioconB1 [0x00], .wr .initBase s.cfg.initBlock, .wr .ioconB0 [s.cfg.ioconRun]] (.ok .unit) rest)

/-- R94, R96, R138: INIT whose k-th write fails: nothing after it is sent, the shadows keep their values, ready is false and stale true. That the
error's index counts from 1 is the model's reading (entry 10, DEDUCED). -/
def Obligations.FailedInit : Prop :=
  ∀ (s : State) (as rest : List Answer) (k : Fin 3), s.seq = .between → s.env = as ++ .error :: rest →
    as.length = k → allOk as = true →
    exec .init s = .next (s.finished { s.block with ready := false, stale := true }
      ([Tx.wr .ioconB1 [0x00], .wr .initBase s.cfg.initBlock, .wr .ioconB0 [s.cfg.ioconRun]].take (k + 1))
      (.err (.transportError
        ([Tx.wr .ioconB1 [0x00], .wr .initBase s.cfg.initBlock, .wr .ioconB0 [s.cfg.ioconRun]][k]) (k + 1))) rest)

/-- R97, R141: construction raises ConfigurationError, with no state, when the bus identifier is no integer, the device address is 128 or more, or
the interval is negative; and other arguments construct a machine whose INIT has begun, where the configuration is well formed. Which of several
failures is reported is the model's choice (entry 22), and so are two of the checks of a well-formed configuration (entry 15). -/
def Obligations.ConfigurationErrors : Prop :=
  ∀ (a : CtorArgs) (env : List Answer),
    (a.busId = none → construct a env = .fault (.configurationError .busId)) ∧
    (a.busId ≠ none → 128 ≤ a.devAddr → construct a env = .fault (.configurationError .devAddr)) ∧
    (a.busId ≠ none → a.devAddr < 128 → a.interval < 0 → construct a env = .fault (.configurationError .interval)) ∧
    (a.busId ≠ none → a.devAddr < 128 → 0 ≤ a.interval → a.config.wf = true →
      construct a env = exec .init { State.created a.config with env := env }) ∧
    (a.busId ≠ none → a.devAddr < 128 → 0 ≤ a.interval → a.config.wf = false →
      ∃ c, construct a env = .refused (.illFormedConfig c))

/-- R35, R36, R37, R95: INIT's three writes take an expander at power-on, or as INIT leaves it, to the value R35 tabulates for every register the
device lets be written, and to IOCON_RUN, in bank 1 with the address pointer fixed (an observer, entry 16; default configuration). -/
def Obligations.InitConfiguresTheExpander : Prop :=
  ∀ e : Expander, e.iocon = 0x00 ∨ e.iocon = 0xA0 →
    let e' := e.run Config.default [.wr .ioconB1 [0x00], .wr .initBase Config.default.initBlock,
      .wr .ioconB0 [Config.default.ioconRun]]
    e'.iodira = 0x3F ∧ e'.iodirb = 0x02 ∧ e'.ipola = 0x3F ∧ e'.ipolb = 0x00 ∧ e'.gpintena = 0x00 ∧ e'.gpintenb = 0x00 ∧
      e'.defvala = 0x00 ∧ e'.defvalb = 0x00 ∧ e'.intcona = 0x00 ∧ e'.intconb = 0x00 ∧ e'.gppua = 0x3F ∧ e'.gppub = 0x00 ∧
      e'.olata = 0x00 ∧ e'.olatb = 0x00 ∧ e'.iocon = 0xA0 ∧ ioconBank e'.iocon = true ∧ ioconSeqop e'.iocon = true

/-! ### The bytes the engine builds -/

/-- R63: the remap table's formula; under the default pins its sixteen entries; under any well-formed pins it is one to one and onto the bytes
that raise no line but the four data lines. -/
def Obligations.RemapTable : Prop :=
  (∀ (cfg : Config) (n : BitVec 4), flipTable cfg n =
      (if n.getLsbD 0 then cfg.pinD4 else 0) ||| (if n.getLsbD 1 then cfg.pinD5 else 0) |||
        (if n.getLsbD 2 then cfg.pinD6 else 0) ||| (if n.getLsbD 3 then cfg.pinD7 else 0)) ∧
    ((List.range 16).map fun n => flipTable Config.default (BitVec.ofNat 4 n)) =
      [0x00, 0x10, 0x08, 0x18, 0x04, 0x14, 0x0C, 0x1C, 0x02, 0x12, 0x0A, 0x1A, 0x06, 0x16, 0x0E, 0x1E] ∧
    ∀ cfg : Config, cfg.wf = true →
      (∀ m n : BitVec 4, flipTable cfg m = flipTable cfg n → m = n) ∧
        ∀ b : Byte, b &&& ~~~(cfg.pinD4 ||| cfg.pinD5 ||| cfg.pinD6 ||| cfg.pinD7) = 0 ↔ ∃ n, flipTable cfg n = b

/-- R64, R65, R66: the frame of a byte, the base and the two poll bytes, written out. -/
def Obligations.FrameAndPollBytes : Prop :=
  ∀ (cfg : Config) (blk : Block) (c : Bool) (b v : Byte),
    frame cfg b v =
        [(b ||| flipTable cfg (v.extractLsb' 4 4)) ||| cfg.pinE, b ||| flipTable cfg (v.extractLsb' 4 4),
          (b ||| flipTable cfg (v.extractLsb' 0 4)) ||| cfg.pinE, b ||| flipTable cfg (v.extractLsb' 0 4)] ∧
      base cfg blk c = (blk.portb &&& cfg.pinBlue) ||| (if c then cfg.pinRS else 0) ∧
      pollLo cfg blk = (blk.portb &&& cfg.pinBlue) ||| cfg.pinRW ∧
      pollHi cfg blk = ((blk.portb &&& cfg.pinBlue) ||| cfg.pinRW) ||| cfg.pinE

/-- R24, R39, R50, R54, R64, R101, R171: while every line of port B is an output, what the controller receives from a sequence's batches is its bytes in
order, the high nibble of each first, all with the register select of the sequence. A frame of which the device got k bytes has made k / 2 strobes. A
poll of n iterations before the batches, during which D7 alone may be an input, is 2n read strobes and delivers nothing, so the batches after it are
received too, unless port B was left with E high (a frame or a poll cut): then the poll's first write makes one strobe more, the controller pairs
the last read with the first nibble, and receives every later pair one nibble off. (An observer of the expander and of a controller that starts
in phase, entry 16; lines that move with E are free values, entry 27, and so is what a mixed pair makes, entry 26.) -/
def Obligations.ControllerReceivesTheSequence : Prop :=
  ∀ (cfg : Config) (blk : Block) (c : Bool) (e : Expander) (vs : List Byte), cfg.wf = true → Mapped cfg e →
    let frames := (batches cfg (base cfg blk c) vs).map frameTx
    let whole := vs.map fun v => { rs := c, val := v }
    let nibbles : Byte → List Strobe := fun v => [.write c (highNibble v), .write c (lowNibble v)]
    let first := edgeStrobe cfg e.olatb (pollLo cfg blk) e.iodirb
    (e.iodirb = 0 → lcdReceives cfg e frames = whole ∧
      ∀ (v : Byte) (k : Nat), k ≤ 4 →
        strobes cfg e ((frameTx (frame cfg (base cfg blk c) v)).reached (k + 1) ++ frames) =
          (nibbles v).take (k / 2) ++ vs.flatMap nibbles) ∧
    (e.iodirb &&& ~~~cfg.pinD7 = 0 → ddrbOk cfg blk.ddrb → ∀ n : Nat,
      strobes cfg e (wholePoll cfg blk n ++ frames) =
        (if anyBit e.olatb cfg.pinE then [first] else []) ++ List.replicate (2 * n) (.read false) ++ vs.flatMap nibbles ∧
      (anyBit e.olatb cfg.pinE = false → lcdReceives cfg e (wholePoll cfg blk n ++ frames) = whole) ∧
      (∀ v rest, anyBit e.olatb cfg.pinE = true → 1 ≤ n → vs = v :: rest →
        lcdReceives cfg e (wholePoll cfg blk n ++ frames) =
          (strobePair first (.read false)).toList ++ (Config.mixedStrobes (.read false) (.write c (highNibble v))).toList ++
            (oneNibbleOff vs).map fun w => { rs := c, val := w }))

/-- R52, R106: the batches of a sequence are its frames in order, cut so that every batch but the last holds BATCH_MAX bytes and none holds more
or is empty or cuts a frame; with the default of 32 there are ceil(n / 8). -/
def Obligations.BatchesCutTheFrames : Prop :=
  ∀ (cfg : Config) (m : Byte) (vs : List Byte), cfg.wf = true →
    (batches cfg m vs).flatten = vs.flatMap (frame cfg m) ∧
      (∀ b ∈ batches cfg m vs, 4 ≤ b.length ∧ b.length ≤ cfg.batchMax ∧ b.length % 4 = 0) ∧
      (∀ b ∈ (batches cfg m vs).dropLast, b.length = cfg.batchMax) ∧
      (cfg.batchMax = 32 → (batches cfg m vs).length = (vs.length + 7) / 8)

/-- R81: under the mask policy, and for every slot the reject policy lets through, the CGRAM command is SET CGRAM ADDRESS of eight times the
slot's low three bits. -/
def Obligations.CgramCommand : Prop :=
  ∀ (cfg : Config) (slot : Byte), cfg.cmdSetCgram = 0x40 →
    (cfg.slotPolicy = .mask → cgramCmd cfg slot = 0x40 ||| ((slot &&& 7) <<< 3)) ∧
      (cfg.slotPolicy = .reject → slot ≤ 7 → cgramCmd cfg slot = 0x40 ||| (slot <<< 3)) ∧
      (cfg.slotPolicy = .mask ∨ slot ≤ 7 →
        0x40 ≤ cgramCmd cfg slot ∧ cgramCmd cfg slot ≤ 0x7F ∧ cgramCmd cfg slot &&& 7 = 0)

/-- R114: the lines of a text hold no separator, joined by separators they are the text, and there is one more of them than separators. -/
def Obligations.LinesOfText : Prop :=
  ∀ (sep : Byte) (t : List Byte),
    (∀ l ∈ splitLines sep t, sep ∉ l) ∧ [sep].intercalate (splitLines sep t) = t ∧
      (splitLines sep t).length = t.count sep + 1 ∧ splitLines sep [] = [[]]

/-! ### LCD operations without a poll -/

/-- R105, R107, R108, R171: INSTR and DATA, D7 being an output: one WR of the byte's frame, with RS raised for DATA; and, for INSTR of a slow byte
alone, D7 is then made an input. Where the frame fails PORTB is kept and nothing follows; where a slow byte's direction write fails the frame stays
sent and D7 stays an output. That the error's index counts from 1 is the model's reading (entry 10, DEDUCED). -/
def Obligations.OneByteFromIdle : Prop :=
  ∀ (s : State) (b d d' : Byte) (rest : List Answer), ReadyIdle s →
    let f0 := frameTx (frame s.cfg (base s.cfg s.block false) b)
    let f1 := frameTx (frame s.cfg (base s.cfg s.block true) b)
    let sent : Block := { s.block with portb := base s.cfg s.block false ||| flipTable s.cfg (lowNibble b) }
    let dir := Tx.wr .iodirb [s.block.ddrb ||| s.cfg.ddrbD7Dir]
    (b ≠ s.cfg.cmdClear → b ≠ s.cfg.cmdHome → s.env = .ok d :: rest →
      exec (.instr b) s = .next (s.finished sent [f0] (.ok .unit) rest)) ∧
    (b = s.cfg.cmdClear ∨ b = s.cfg.cmdHome → s.env = .ok d :: .ok d' :: rest →
      exec (.instr b) s = .next (s.finished { sent with ddrb := s.block.ddrb ||| s.cfg.ddrbD7Dir } [f0, dir] (.ok .unit) rest)) ∧
    (s.env = .ok d :: rest →
      exec (.data b) s = .next (s.finished
        { s.block with portb := base s.cfg s.block true ||| flipTable s.cfg (lowNibble b) } [f1] (.ok .unit) rest)) ∧
    (b = s.cfg.cmdClear ∨ b = s.cfg.cmdHome → s.env = .ok d :: .error :: rest →
      exec (.instr b) s = .next (s.finished { sent with stale := true } [f0, dir] (.err (.transportError dir 2)) rest) ∧
        displayState s.cfg { sent with stale := true } = .idle) ∧
    (s.env = .error :: rest →
      exec (.instr b) s = .next (s.finished { s.block with stale := true } [f0] (.err (.transportError f0 1)) rest) ∧
        exec (.data b) s = .next (s.finished { s.block with stale := true } [f1] (.err (.transportError f1 1)) rest))

/-- R106, R107, R109: INSTRS and DATAS, D7 being an output: one WR for each batch, and never a direction write. -/
def Obligations.SequenceFromIdle : Prop :=
  ∀ (s : State) (c : Bool) (bs : List Byte) (as rest : List Answer), ReadyIdle s → s.env = as ++ rest →
    as.length = (batches s.cfg (base s.cfg s.block c) bs).length → allOk as = true →
    exec (if c then .datas bs else .instrs bs) s = .next (s.finished
      (afterFrames s.block (batches s.cfg (base s.cfg s.block c) bs))
      ((batches s.cfg (base s.cfg s.block c) bs).map frameTx) (.ok .unit) rest)

/-- R106, R138: a sequence whose (k+1)-th batch fails: the batches before it stay sent, PORTB is at the last of them, nothing follows. That the
error's index counts from 1 is the model's reading (entry 10, DEDUCED). -/
def Obligations.SequenceFailsAtABatch : Prop :=
  ∀ (s : State) (c : Bool) (bs : List Byte) (as rest : List Answer) (k : Nat) (b : List Byte), ReadyIdle s →
    s.env = as ++ .error :: rest → as.length = k → allOk as = true →
    (batches s.cfg (base s.cfg s.block c) bs)[k]? = some b →
    exec (if c then .datas bs else .instrs bs) s = .next (s.finished
      { afterFrames s.block ((batches s.cfg (base s.cfg s.block c) bs).take k) with stale := true }
      (((batches s.cfg (base s.cfg s.block c) bs).take (k + 1)).map frameTx)
      (.err (.transportError (frameTx b) (k + 1))) rest)

/-- R110, R111: from every state between operations CLEAR and HOME are INSTR of CMD_CLEAR and of CMD_HOME; and, D7 being an output, with two
writes answered ok each sends its frame and makes D7 an input. -/
def Obligations.ClearAndHome : Prop :=
  ∀ s : State, s.seq = .between →
    exec .clear s = exec (.instr s.cfg.cmdClear) s ∧ exec .home s = exec (.instr s.cfg.cmdHome) s ∧
    ∀ (d d' : Byte) (rest : List Answer), ReadyIdle s → s.env = .ok d :: .ok d' :: rest →
      (exec .clear s = .next (s.finished
        { s.block with
          portb := base s.cfg s.block false ||| flipTable s.cfg (lowNibble s.cfg.cmdClear)
          ddrb := s.block.ddrb ||| s.cfg.ddrbD7Dir }
        [frameTx (frame s.cfg (base s.cfg s.block false) s.cfg.cmdClear),
          .wr .iodirb [s.block.ddrb ||| s.cfg.ddrbD7Dir]] (.ok .unit) rest)) ∧
      (exec .home s = .next (s.finished
        { s.block with
          portb := base s.cfg s.block false ||| flipTable s.cfg (lowNibble s.cfg.cmdHome)
          ddrb := s.block.ddrb ||| s.cfg.ddrbD7Dir }
        [frameTx (frame s.cfg (base s.cfg s.block false) s.cfg.cmdHome),
          .wr .iodirb [s.block.ddrb ||| s.cfg.ddrbD7Dir]] (.ok .unit) rest))

/-- R112: CREATECHAR of eight rows in a slot the policy lets through, D7 being an output: the CGRAM command, the rows' batches, the exit command
and, that one being slow, the direction write; with the default BATCH_MAX the rows are one WR. -/
def Obligations.CreatecharFromIdle : Prop :=
  ∀ (s : State) (slot : Byte) (pat : List Byte) (as rest : List Answer), ReadyIdle s → s.cfg.wf = true →
    pat.length = 8 → (s.cfg.slotPolicy = .mask ∨ slot.toNat ≤ 7) → isSlow s.cfg (cgramCmd s.cfg slot) = false →
    isSlow s.cfg s.cfg.cmdCgramExit = true → s.env = as ++ rest → allOk as = true →
    let rows := batches s.cfg (base s.cfg s.block true) pat
    as.length = rows.length + 3 →
    exec (.createchar slot pat) s = .next (s.finished
      { s.block with
        portb := base s.cfg s.block false ||| flipTable s.cfg (lowNibble s.cfg.cmdCgramExit)
        ddrb := s.block.ddrb ||| s.cfg.ddrbD7Dir }
      ([frameTx (frame s.cfg (base s.cfg s.block false) (cgramCmd s.cfg slot))] ++ rows.map frameTx ++
        [frameTx (frame s.cfg (base s.cfg s.block false) s.cfg.cmdCgramExit),
          .wr .iodirb [s.block.ddrb ||| s.cfg.ddrbD7Dir]]) (.ok .unit) rest) ∧
      (s.cfg.batchMax = 32 → rows = [pat.flatMap (frame s.cfg (base s.cfg s.block true))])

/-- R112, R142, R145: a pattern that is not of eight bytes, and under the reject policy a slot above 7, end CREATECHAR with ProtocolUsageError
before any transaction; the pattern is checked first, and no state changes. -/
def Obligations.CreatecharUsageErrors : Prop :=
  ∀ (s : State) (slot : Byte) (pat : List Byte), s.seq = .between → s.block.ready = true →
    (pat.length ≠ 8 → exec (.createchar slot pat) s = .next (s.finished s.block []
      (.err (.protocolUsageError .patternLen pat.length)) s.env)) ∧
    (pat.length = 8 → s.cfg.slotPolicy = .reject → 7 < slot.toNat → exec (.createchar slot pat) s =
      .next (s.finished s.block [] (.err (.protocolUsageError .slotRange slot.toNat)) s.env))

/-- R113, R114: TEXT of one line, and TEXT of more, D7 being an output: line 0, then the reposition and line 1; later lines are dropped. -/
def Obligations.TextFromIdle : Prop :=
  ∀ (s : State) (t l0 l1 : List Byte) (ls : List (List Byte)) (as rest : List Answer), ReadyIdle s → s.cfg.wf = true →
    isSlow s.cfg s.cfg.cmdLine2 = false → s.env = as ++ rest → allOk as = true →
    let w0 := batches s.cfg (base s.cfg s.block true) l0
    let w1 := batches s.cfg (base s.cfg s.block true) l1
    let r := frame s.cfg (base s.cfg s.block false) s.cfg.cmdLine2
    (splitLines s.cfg.lineSep t = [l0] → as.length = w0.length →
      exec (.text t) s = .next (s.finished (afterFrames s.block w0) (w0.map frameTx) (.ok .unit) rest)) ∧
    (splitLines s.cfg.lineSep t = l0 :: l1 :: ls → as.length = w0.length + 1 + w1.length →
      exec (.text t) s = .next (s.finished (afterFrames s.block (w0 ++ [r] ++ w1)) ((w0 ++ [r] ++ w1).map frameTx)
        (.ok .unit) rest))

/-- R113: TEXTC, D7 being an output: the clear with its direction write, then the poll, then the text's lines. -/
def Obligations.TextcFromIdle : Prop :=
  ∀ (s : State) (t l0 l1 : List Byte) (ls : List (List Byte)) (busy : List Byte) (r d : Byte) (as rest : List Answer),
    ReadyIdle s → s.cfg.wf = true → isSlow s.cfg s.cfg.cmdLine2 = false → PollEnds s.cfg busy r → allOk as = true →
    s.env = .ok d :: .ok d :: (pollAnswers d (busy ++ [r]) ++ .ok d :: (as ++ rest)) →
    let blk1 : Block := { s.block with
      portb := base s.cfg s.block false ||| flipTable s.cfg (lowNibble s.cfg.cmdClear)
      ddrb := s.block.ddrb ||| s.cfg.ddrbD7Dir }
    let blk2 := afterPoll s.cfg blk1
    let w0 := batches s.cfg (base s.cfg s.block true) l0
    let w1 := batches s.cfg (base s.cfg s.block true) l1
    let line2 := frame s.cfg (base s.cfg s.block false) s.cfg.cmdLine2
    let pre := [frameTx (frame s.cfg (base s.cfg s.block false) s.cfg.cmdClear),
      .wr .iodirb [s.block.ddrb ||| s.cfg.ddrbD7Dir]] ++ wholePoll s.cfg blk1 (busy.length + 1)
    (splitLines s.cfg.lineSep t = [l0] → as.length = w0.length →
      exec (.textc t) s = .next (s.finished (afterFrames blk2 w0) (pre ++ w0.map frameTx) (.ok .unit) rest)) ∧
    (splitLines s.cfg.lineSep t = l0 :: l1 :: ls → as.length = w0.length + 1 + w1.length →
      exec (.textc t) s = .next (s.finished (afterFrames blk2 (w0 ++ [line2] ++ w1))
        (pre ++ (w0 ++ [line2] ++ w1).map frameTx) (.ok .unit) rest))

/-- R84, R160: LCDBOOT from a state like the one INIT leaves: eight frames, a poll before the first and before the fifth, a direction write after
the fourth and after the eighth, eight results, and D7 an input at its end. -/
def Obligations.LcdbootAfterInit : Prop :=
  ∀ (s : State) (busy1 busy2 : List Byte) (r1 r2 d : Byte) (rest : List Answer), ReadyPolling s →
    s.cfg.wf = true → s.cfg.cmdClear = 0x01 → s.cfg.cmdHome = 0x02 →
    PollEnds s.cfg busy1 r1 → PollEnds s.cfg busy2 r2 →
    s.env = pollAnswers d (busy1 ++ [r1]) ++ List.replicate 6 (.ok d) ++
      (pollAnswers d (busy2 ++ [r2]) ++ List.replicate 6 (.ok d) ++ rest) →
    let f := fun v : Byte => frameTx (frame s.cfg (base s.cfg s.block false) v)
    let dd := s.block.ddrb ||| s.cfg.ddrbD7Dir
    let blk1 : Block := { s.block with portb := base s.cfg s.block false ||| flipTable s.cfg 1, ddrb := dd }
    exec .lcdboot s = .next
      { s with
        block := { s.block with portb := base s.cfg s.block false ||| flipTable s.cfg 2, ddrb := dd }
        env := rest
        trace := s.trace ++ (wholePoll s.cfg s.block (busy1.length + 1) ++ [f 0x33, f 0x32, f 0x28, f 0x01] ++
          [.wr .iodirb [dd]] ++ (wholePoll s.cfg blk1 (busy2.length + 1) ++ [f 0x14, f 0x06, f 0x0C, f 0x02] ++
          [.wr .iodirb [dd]]))
        results := s.results ++ List.replicate 8 (.ok .unit) }

/-- R55, R84, R143: LCDBOOT performs its eight INSTRs in turn, each from the state the one before it left, whatever their results and in either
display state; that an error in one does not keep the next from being issued is the model's choice (entry 9, DESIGN CHOICE). Where its answers
suffice for its first k INSTRs and no more, the INSTRs after the one in progress wait to be performed next, before any operation that waited
already (the queue is the model's too, entries 8 and 9); and where the block is not ready each of the eight raises NotInitialized. -/
def Obligations.LcdbootExpands : Prop :=
  ∀ s : State, s.seq = .between →
    (∀ f : Nat → State, f 0 = s → (∀ k b, lcdbootBytes[k]? = some b →
      exec (.instr b) (f k) = .next (f (k + 1)) ∧ (f (k + 1)).seq = .between) → exec .lcdboot s = .next (f 8)) ∧
    (∀ t r, exec .lcdboot s = .next t → t.seq = .running r →
      ∃ k, k < 8 ∧ t.queued = (lcdbootBytes.drop (k + 1)).map .instr ++ s.queued ∧
        t.results.length = s.results.length + k) ∧
    (s.block.ready = false →
      exec .lcdboot s = .next { s with results := s.results ++ List.replicate 8 (.err .notInitialized) })

/-! ### The busy poll -/

/-- R100, R101, R102: DATA, and INSTR of a byte outside the slow set, while D7 is an input: a poll of as many iterations as it takes to read a
byte that is not busy, D7 made an output, then the frame on the base after the poll. -/
def Obligations.PollThenOneByte : Prop :=
  ∀ (s : State) (c : Bool) (b : Byte) (busy : List Byte) (r d : Byte) (rest : List Answer), ReadyPolling s →
    (c = false → isSlow s.cfg b = false) → PollEnds s.cfg busy r →
    s.env = pollAnswers d (busy ++ [r]) ++ .ok d :: .ok d :: rest →
    exec (if c then .data b else .instr b) s = .next (s.finished
      { afterPoll s.cfg s.block with
        portb := base s.cfg (afterPoll s.cfg s.block) c ||| flipTable s.cfg (lowNibble b) }
      (wholePoll s.cfg s.block (busy.length + 1) ++
        [frameTx (frame s.cfg (base s.cfg (afterPoll s.cfg s.block) c) b)]) (.ok .unit) rest)

/-- R100, R109: INSTRS and DATAS while D7 is an input poll first, an empty sequence too. -/
def Obligations.PollThenSequence : Prop :=
  ∀ (s : State) (c : Bool) (bs : List Byte) (busy : List Byte) (r d : Byte) (as rest : List Answer), ReadyPolling s →
    PollEnds s.cfg busy r → s.env = pollAnswers d (busy ++ [r]) ++ .ok d :: (as ++ rest) → allOk as = true →
    as.length = (batches s.cfg (base s.cfg (afterPoll s.cfg s.block) c) bs).length →
    exec (if c then .datas bs else .instrs bs) s = .next (s.finished
      (afterFrames (afterPoll s.cfg s.block) (batches s.cfg (base s.cfg (afterPoll s.cfg s.block) c) bs))
      (wholePoll s.cfg s.block (busy.length + 1) ++
        (batches s.cfg (base s.cfg (afterPoll s.cfg s.block) c) bs).map frameTx) (.ok .unit) rest)

/-- R99, R100: an LCD operation of any form while D7 is an input is a poll and then the operation as it is while D7 is an output: the same
transactions, S and result, a TransportError's index being counted from the operation's first transaction, the poll's; and where the one awaits an
answer and has returned nothing, so has the other. -/
def Obligations.PollThenOperation : Prop :=
  ∀ (s t u : State) (i : Instr) (busy : List Byte) (r d d' : Byte) (rest : List Answer), ReadyPolling s → i.isLcd = true →
    (∀ slot pat, i = .createchar slot pat → pat.length = 8 ∧ (s.cfg.slotPolicy = .mask ∨ slot.toNat ≤ 7)) →
    PollEnds s.cfg busy r → s.env = pollAnswers d (busy ++ [r]) ++ .ok d' :: rest → exec i s = .next t →
    exec i { s with
      block := afterPoll s.cfg s.block, env := rest
      trace := s.trace ++ wholePoll s.cfg s.block (busy.length + 1) } = .next u →
    t.block = u.block ∧ t.trace = u.trace ∧ t.env = u.env ∧
      (u.seq = .between → t.seq = .between ∧ ∃ o, u.results = s.results ++ [o] ∧
        t.results = s.results ++ [OpResult.after (3 * busy.length + 5) o]) ∧
      (u.seq ≠ .between → t.seq ≠ .between ∧ u.results = s.results ∧ t.results = s.results)

/-- R104, R144: with POLL_LIMIT = L, L busy reads of one poll end an LCD operation (CREATECHAR past its checks) with BusyTimeout(L) after the last
strobe-rest: no frame is sent, DDRB is unchanged, PORTB is at lo, and stale is not set. -/
def Obligations.BusyTimeoutAtTheLimit : Prop :=
  ∀ (s : State) (i : Instr) (busy : List Byte) (l : Nat) (d : Byte) (rest : List Answer), ReadyPolling s → i.isLcd = true →
    (∀ slot pat, i = .createchar slot pat → pat.length = 8 ∧ (s.cfg.slotPolicy = .mask ∨ slot.toNat ≤ 7)) →
    s.cfg.pollLimit = some l → 1 ≤ l → busy.length = l → (∀ x ∈ busy, busyFlag s.cfg x = true) →
    s.env = pollAnswers d busy ++ rest →
    exec i s = .next (s.finished
      { s.block with portb := pollLo s.cfg s.block } (pollTxs (pollLo s.cfg s.block) (pollHi s.cfg s.block) l)
      (.err (.busyTimeout l)) rest)

/-- R103: without a limit, busy reads alone never end an LCD operation (CREATECHAR past its checks), however many there are: it stays in progress, it returns
nothing, and it has sent one poll iteration for each; PORTB is at lo, and nothing else of S has changed. -/
def Obligations.BusyPollNeedNotEnd : Prop :=
  ∀ (s t : State) (i : Instr) (busy : List Byte) (d : Byte), ReadyPolling s → i.isLcd = true → s.cfg.pollLimit = none →
    (∀ slot pat, i = .createchar slot pat → pat.length = 8 ∧ (s.cfg.slotPolicy = .mask ∨ slot.toNat ≤ 7)) →
    (∀ x ∈ busy, busyFlag s.cfg x = true) → s.env = pollAnswers d busy → exec i s = .next t →
    (∃ r, t.seq = .running r) ∧ t.results = s.results ∧ t.block = { s.block with portb := pollLo s.cfg s.block } ∧
      t.trace = s.trace ++ pollTxs (pollLo s.cfg s.block) (pollHi s.cfg s.block) busy.length ++
        [.w1 (pollHi s.cfg s.block)]

/-- R89, R101, R138: an LCD operation (CREATECHAR past its checks) whose poll fails at any of its transactions, whether the last read was busy or not,
the direction write among them, ends there and leaves D7 an input, so that the next LCD operation polls again. POLL_LIMIT, where there is one, has
not been reached before the last iteration. PORTB is then what the last write answered ok left: its old value where SETUP fails, lo where a
STROBE_HI fails, hi, with E = 1, where a READ or a strobe-rest fails, and lo where the direction write fails. That the error's index counts from 1 is the model's reading (entry 10, DEDUCED). -/
def Obligations.FailedPollKeepsPolling : Prop :=
  ∀ (s : State) (i : Instr) (busy : List Byte) (r d : Byte) (rest : List Answer), ReadyPolling s → i.isLcd = true →
    (∀ slot pat, i = .createchar slot pat → pat.length = 8 ∧ (s.cfg.slotPolicy = .mask ∨ slot.toNat ≤ 7)) →
    (∀ x ∈ busy, busyFlag s.cfg x = true) → pollExpired s.cfg busy.length = false →
    (∀ (k : Nat) (e : Tx), s.env = (pollAnswers d (busy ++ [r])).take k ++ .error :: rest →
      (pollTxs (pollLo s.cfg s.block) (pollHi s.cfg s.block) (busy.length + 1))[k]? = some e →
      exec i s = .next (s.finished
        { s.block with
          portb := if k = 0 then s.block.portb else if k % 3 = 1 then pollLo s.cfg s.block else pollHi s.cfg s.block
          stale := true }
        ((pollTxs (pollLo s.cfg s.block) (pollHi s.cfg s.block) (busy.length + 1)).take (k + 1))
        (.err (.transportError e (k + 1))) rest)) ∧
    (busyFlag s.cfg r = false → s.env = pollAnswers d (busy ++ [r]) ++ .error :: rest →
      exec i s = .next (s.finished
        { s.block with portb := pollLo s.cfg s.block, stale := true } (wholePoll s.cfg s.block (busy.length + 1))
        (.err (.transportError (.wr .iodirb [s.block.ddrb &&& ~~~s.cfg.ddrbD7Dir]) (3 * busy.length + 5))) rest))

/-! ### Backlight, buttons and the notifier -/

/-- R82, R118, R119, R120, R166: BACKLIGHT, whatever DisplayState: PORTA's write, then PORTB's; where the second fails the new PORTA stays beside the old
PORTB; where the first fails neither changes and the second is not sent. While port B's latch is the shadow, E high or low, the two writes make no edge
of E (an observer, entry 16). That the error's index counts from 1 is the model's reading (entry 10,
DEDUCED). -/
def Obligations.BacklightWrites : Prop :=
  ∀ (s : State) (color d d' : Byte) (rest : List Answer), s.seq = .between → s.block.ready = true →
    let pa := colorPortA s.cfg s.block.porta color
    let pb := colorPortB s.cfg s.block.portb color
    (s.env = .ok d :: .ok d' :: rest → exec (.backlight color) s = .next (s.finished
      { s.block with porta := pa, portb := pb } [.wr .gpioa [pa], .wr .gpiob [pb]] (.ok .unit) rest)) ∧
    (s.env = .ok d :: .error :: rest → exec (.backlight color) s = .next (s.finished
      { s.block with porta := pa, stale := true } [.wr .gpioa [pa], .wr .gpiob [pb]]
      (.err (.transportError (.wr .gpiob [pb]) 2)) rest)) ∧
    (s.env = .error :: rest → exec (.backlight color) s = .next (s.finished { s.block with stale := true }
      [.wr .gpioa [pa]] (.err (.transportError (.wr .gpioa [pa]) 1)) rest)) ∧
    (∀ e : Expander, s.cfg.wf = true → Mapped s.cfg e → e.olatb = s.block.portb →
      strobes s.cfg e [.wr .gpioa [pa], .wr .gpiob [pb]] = [])

/-- R82, R124: a BACKLIGHT that succeeds leaves shadows that read back as the colour, and leaves every bit but red, green and blue
(default pins). -/
def Obligations.ColourRoundTrip : Prop :=
  ∀ (s t : State) (color : Byte), s.cfg = Config.default → s.seq = .between → s.block.ready = true → color ≤ 7 →
    exec (.backlight color) s = .next t → t.results = s.results ++ [.ok .unit] →
    ~~~(((t.block.porta >>> 6) &&& 1) ||| (((t.block.porta >>> 7) &&& 1) <<< 1) ||| ((t.block.portb &&& 1) <<< 2)) &&& 7 =
        color ∧
      t.block.porta &&& 0x3F = s.block.porta &&& 0x3F ∧ t.block.portb &&& 0xFE = s.block.portb &&& 0xFE

/-- R82: the colour bytes under the default pins, bits 7..3 of the operand ignored. -/
def Obligations.ColourBytes : Prop :=
  ∀ pa pb color : Byte,
    colorPortA Config.default pa color = (pa &&& 0x3F) ||| ((~~~color &&& 0x3) <<< 6) ∧
      colorPortB Config.default pb color = (pb &&& 0xFE) ||| ((~~~color &&& 0x4) >>> 2) ∧
      shownColor Config.default (colorPortA Config.default pa color) (colorPortB Config.default pb color) = color &&& 7

/-- R122, R138: SAMPLE: one addressed read of port A, of which the button bits are the result; no shadow changes. Where the read fails the result is
TransportError and nothing but stale changes; that its index counts from 1 is the model's reading (entry 10, DEDUCED). -/
def Obligations.SampleCompletes : Prop :=
  ∀ (s : State) (r : Byte) (rest : List Answer), s.seq = .between → s.block.ready = true →
    (s.env = .ok r :: rest →
      exec .sample s = .next (s.finished s.block [.rr .gpioa] (.ok (.mask (r &&& s.cfg.buttonMask))) rest)) ∧
    (s.env = .error :: rest →
      exec .sample s = .next (s.finished { s.block with stale := true } [.rr .gpioa]
        (.err (.transportError (.rr .gpioa) 1)) rest))

/-- R123: NAME's bytes; and NAME of every mask, from any state: no transaction, no state change, and a name for the five single-button masks
only. -/
def Obligations.NameCompletes : Prop :=
  ∀ (s : State) (m : Byte), s.seq = .between → encode (.name m) = [0x71, m] ∧
    exec (.name m) s = .next (s.finished s.block [] (.ok (.name
      (if m = 0x01 then some .select else if m = 0x02 then some .right else if m = 0x04 then some .down
        else if m = 0x08 then some .up else if m = 0x10 then some .left else none))) s.env)

/-- R127, R128, R134: TICK while Armed: one read; an unchanged mask gives no event; a changed one gives exactly the change event with the exclusive
or and then a release when the new mask is the smaller number, else a press, and the mask is stored; where the read fails the event port gets
the error, the mask is kept and the notifier stays Armed. That every result of a TICK goes to the event port, and that the error's index counts
from 1, are the model's readings (entries 11 and 10, DEDUCED). -/
def Obligations.TickWhileArmed : Prop :=
  ∀ (s : State) (r : Byte) (rest : List Answer), s.seq = .between → s.block.ready = true → s.block.notifier = .armed →
    let cur := r &&& s.cfg.buttonMask
    let prev := s.block.prevMask
    (s.env = .ok r :: rest → cur = prev →
      exec .tick s = .next (s.ticked s.block [.rr .gpioa] (.ok (.events [])) rest)) ∧
    (s.env = .ok r :: rest → cur ≠ prev → exec .tick s = .next (s.ticked { s.block with prevMask := cur } [.rr .gpioa]
      (.ok (.events [.change (prev ^^^ cur),
        if cur < prev then .release (releasePayload s.cfg prev cur) else .press (pressPayload s.cfg prev cur)])) rest)) ∧
    (s.env = .error :: rest → exec .tick s = .next (s.ticked { s.block with stale := true } [.rr .gpioa]
      (.err (.transportError (.rr .gpioa) 1)) rest))

/-- R129: under `delta` a press and a release carry the exclusive or; under `directional` a press carries the bits that came and a release those
that went; the two agree when one bit changes, and what is carried is never 0. -/
def Obligations.EventPayloads : Prop :=
  ∀ (cfg : Config) (prev cur : Byte),
    (cfg.eventPayload = .delta →
      pressPayload cfg prev cur = prev ^^^ cur ∧ releasePayload cfg prev cur = prev ^^^ cur) ∧
    (cfg.eventPayload = .directional →
      pressPayload cfg prev cur = cur &&& ~~~prev ∧ releasePayload cfg prev cur = prev &&& ~~~cur) ∧
    (prev < cur → pressPayload cfg prev cur ≠ 0) ∧ (cur < prev → releasePayload cfg prev cur ≠ 0) ∧
    (singleBit (prev ^^^ cur) = true → prev < cur → pressPayload cfg prev cur = prev ^^^ cur) ∧
    (singleBit (prev ^^^ cur) = true → cur < prev → releasePayload cfg prev cur = prev ^^^ cur)

/-- R131: TICK while the notifier is not Armed returns no events, emits no transaction and changes no state, ready or not. That its Ok([]) goes to
the event port is the model's reading of R138 (d) and R150 (entry 11, DEDUCED). -/
def Obligations.TickWhileNotArmed : Prop :=
  ∀ s : State, s.seq = .between → s.block.notifier ≠ .armed →
    exec .tick s = .next (s.ticked s.block [] (.ok (.events [])) s.env)

/-- R132: CLOSE from every state between operations: the notifier is Closed, nothing else changes, no transaction. -/
def Obligations.CloseCompletes : Prop :=
  ∀ s : State, s.seq = .between →
    exec .close s = .next (s.finished { s.block with notifier := .closed } [] (.ok .unit) s.env)

/-- R29, R126: Closed is final: no step leaves it. -/
def Obligations.ClosedIsFinal : Prop :=
  ∀ s t : State, s.block.notifier = .closed → step s = .next t → t.block.notifier = .closed

/-! ### Frames -/

/-- R19, R23, R26, R27, R29, R30, R58, R65, R107: what an LCD operation leaves, whether it completes, fails or waits: PORTA, ready, the notifier and
its mask, every direction bit but D7's, under well-formed pins the blue bit of PORTB, the configuration, the stream and what waits, and the event
port; stale is only ever set; and DATA, INSTRS, DATAS, and INSTR of a byte outside the slow set, never make D7 an input. -/
def Obligations.LcdOperationsFrame : Prop :=
  ∀ (i : Instr) (s t : State), i.isLcd = true → s.seq = .between → exec i s = .next t →
    t.cfg = s.cfg ∧ t.block.porta = s.block.porta ∧ t.block.ready = s.block.ready ∧
      t.block.notifier = s.block.notifier ∧ t.block.prevMask = s.block.prevMask ∧
      t.block.ddrb &&& ~~~s.cfg.ddrbD7Dir = s.block.ddrb &&& ~~~s.cfg.ddrbD7Dir ∧
      (s.block.stale = true → t.block.stale = true) ∧ t.queued = s.queued ∧ t.input = s.input ∧
      t.offset = s.offset ∧ t.draws = s.draws ∧ t.events = s.events ∧
      (s.cfg.wf = true → t.block.portb &&& s.cfg.pinBlue = s.block.portb &&& s.cfg.pinBlue) ∧
      (∀ b bs, i = .data b ∨ i = .instrs bs ∨ i = .datas bs ∨ (i = .instr b ∧ isSlow s.cfg b = false) →
        t.block.ddrb = s.block.ddrb ∨ t.block.ddrb = s.block.ddrb &&& ~~~s.cfg.ddrbD7Dir)

/-- R119, R120, R122, R123, R127, R132: what BACKLIGHT, SAMPLE, NAME, TICK and CLOSE leave: DDRB and ready always; PORTA and PORTB but for
BACKLIGHT's colour bits; the notifier but for CLOSE; its mask but for TICK. NAME and CLOSE leave stale, the others only ever set it (R28). That the event port is TICK's alone and the Host's results are the
others' alone is the model's reading of R134, R138 (d) and R150 (entry 11, DEDUCED). -/
def Obligations.OtherOperationsFrame : Prop :=
  ∀ (i : Instr) (s t : State), i.isLcd = false → i ≠ .init → i ≠ .lcdboot → s.seq = .between → exec i s = .next t →
    t.cfg = s.cfg ∧ t.block.ddrb = s.block.ddrb ∧ t.block.ready = s.block.ready ∧
      t.block.porta &&& ~~~(s.cfg.pinRed ||| s.cfg.pinGreen) = s.block.porta &&& ~~~(s.cfg.pinRed ||| s.cfg.pinGreen) ∧
      t.block.portb &&& ~~~s.cfg.pinBlue = s.block.portb &&& ~~~s.cfg.pinBlue ∧
      ((∀ c, i ≠ .backlight c) → t.block.porta = s.block.porta ∧ t.block.portb = s.block.portb) ∧
      (i ≠ .close → t.block.notifier = s.block.notifier) ∧ (i ≠ .tick → t.block.prevMask = s.block.prevMask) ∧
      (s.block.stale = true → t.block.stale = true) ∧
      (i = .close ∨ (∃ m, i = .name m) → t.block.stale = s.block.stale) ∧
      (i ≠ .tick → t.events = s.events) ∧ (i = .tick → t.results = s.results) ∧
      t.queued = s.queued ∧ t.input = s.input ∧ t.offset = s.offset ∧ t.draws = s.draws

/-- R94, R96, R133: what INIT leaves, whether it completes, fails or waits: what waits, the stream, the event port; the notifier and its mask where
it arms nothing, and, with the three shadows, as long as it has not completed. R84: what LCDBOOT leaves: PORTA, ready, the notifier and its mask,
every direction bit but D7's, under well-formed pins the blue bit of PORTB, the stream, the event port; what waited still waits, after its own
INSTRs to come (entry 9); stale is only ever set. -/
def Obligations.InitAndLcdbootFrame : Prop :=
  ∀ s t : State, s.seq = .between →
    (exec .init s = .next t → t.cfg = s.cfg ∧ t.queued = s.queued ∧ t.input = s.input ∧ t.offset = s.offset ∧
      t.draws = s.draws ∧ t.events = s.events ∧
      (s.block.notifier ≠ .unarmed ∨ s.cfg.interval = 0 →
        t.block.notifier = s.block.notifier ∧ t.block.prevMask = s.block.prevMask) ∧
      (t.block.ready = false → t.block.porta = s.block.porta ∧ t.block.portb = s.block.portb ∧
        t.block.ddrb = s.block.ddrb ∧ t.block.notifier = s.block.notifier ∧ t.block.prevMask = s.block.prevMask)) ∧
    (exec .lcdboot s = .next t → t.cfg = s.cfg ∧ t.block.porta = s.block.porta ∧ t.block.ready = s.block.ready ∧
      t.block.notifier = s.block.notifier ∧ t.block.prevMask = s.block.prevMask ∧
      t.block.ddrb &&& ~~~s.cfg.ddrbD7Dir = s.block.ddrb &&& ~~~s.cfg.ddrbD7Dir ∧
      (s.cfg.wf = true → t.block.portb &&& s.cfg.pinBlue = s.block.portb &&& s.cfg.pinBlue) ∧
      (s.block.stale = true → t.block.stale = true) ∧ s.queued <:+ t.queued ∧ t.input = s.input ∧
      t.offset = s.offset ∧ t.draws = s.draws ∧ t.events = s.events)

/-! ### Errors -/

/-- R135, R136, R138, R139: an operation that ends in TransportError is precise: its own transactions end with the failing one, stale is set, and
nothing follows. And an error answered to the transaction an operation awaits ends it so, with nothing else changed. That the transactions are
numbered from 1 is the model's reading (entry 10, DEDUCED). -/
def Obligations.TransportErrorIsPrecise : Prop :=
  ∀ (i : Instr) (s t : State), i ≠ .lcdboot → i ≠ .tick → s.seq = .between → exec i s = .next t →
    (∀ (x : Tx) (k : Nat), t.results = s.results ++ [.err (.transportError x k)] →
      t.block.stale = true ∧ t.seq = .between ∧ ∃ new, t.trace = s.trace ++ new ∧ new.length = k ∧ new.getLast? = some x) ∧
    (∀ (r : Running) (rest : List Answer), t.seq = .running r → exec i (s.giveAnswers (.error :: rest)) =
      .next { t with
        block := { t.block with stale := true }, seq := .between, env := rest
        results := t.results ++ [.err (.transportError r.act.tx (t.trace.length - s.trace.length))] })

/-! ### Equivalences -/

/-- R85: DATA b and DATAS [b] emit the same transactions and give the same result, whatever the answers; so do INSTR b and INSTRS [b] for a byte
outside the slow set. -/
def Obligations.SingletonSequences : Prop :=
  ∀ (s t u : State) (b : Byte), s.seq = .between →
    (exec (.data b) s = .next t → exec (.datas [b]) s = .next u →
      t.trace = u.trace ∧ t.results = u.results ∧ t.block = u.block ∧ t.env = u.env) ∧
    (isSlow s.cfg b = false → exec (.instr b) s = .next t → exec (.instrs [b]) s = .next u →
      t.trace = u.trace ∧ t.results = u.results ∧ t.block = u.block ∧ t.env = u.env)

/-- R85, R113: from every ready state TEXTC t is CLEAR and then TEXT t. Where the CLEAR fails, TEXTC ends in the same state with the same error.
Where it succeeds, TEXTC ends as the TEXT after it ends, with that one result, a TransportError's index counting the CLEAR's transactions too. Where
either awaits an answer, TEXTC awaits the same one, having sent the same and returned nothing. -/
def Obligations.TextcIsClearThenText : Prop :=
  ∀ (s u : State) (t : List Byte), s.seq = .between → s.block.ready = true → exec .clear s = .next u →
    (∀ e, u.seq = .between → u.results = s.results ++ [.err e] → exec (.textc t) s = .next u) ∧
    (∀ r, u.seq = .running r → ∃ w r', exec (.textc t) s = .next w ∧ w.seq = .running r' ∧ r'.act = r.act ∧
      w.block = u.block ∧ w.trace = u.trace ∧ w.results = s.results ∧ w.env = u.env) ∧
    (∀ v : State, u.seq = .between → u.results = s.results ++ [.ok .unit] → exec (.text t) u = .next v →
      (∀ o, v.seq = .between → v.results = u.results ++ [o] → exec (.textc t) s =
        .next { v with results := s.results ++ [OpResult.after (u.trace.length - s.trace.length) o] }) ∧
      (∀ r, v.seq = .running r → ∃ w r', exec (.textc t) s = .next w ∧ w.seq = .running r' ∧ r'.act = r.act ∧
        w.block = v.block ∧ w.trace = v.trace ∧ w.results = s.results ∧ w.env = v.env))

/-! ### The invariant, and rules of the whole machine -/

/-- R40, R98: the invariant holds at reset. -/
def Obligations.InvariantAtReset : Prop := Inv State.reset

/-- R24, R30, R98, R115, R126, R173: every step of the machine keeps the invariant. -/
def Obligations.StepKeepsInvariant : Prop := ∀ s t : State, Inv s → step s = .next t → Inv t

/-- R115 (b), R173: every answer to the transaction that is awaited keeps the invariant, so that a frame awaits its answer only while D7 is an
output, at every point inside an operation. -/
def Obligations.FramesOnlyWhileD7IsOutput : Prop :=
  ∀ (s : State) (r : Running) (a : Answer), Inv s → s.seq = .running r →
    Inv (answer a r s) ∧
      ∀ r' bs, (answer a r s).seq = .running r' → r'.act = .sendFrames bs →
        displayState s.cfg (answer a r s).block = .idle

/-- R41, R48, R52, R59: every transaction an operation other than INIT emits is well formed: a WR goes to GPIOA or IODIRB with one byte or to GPIOB
with 1 to BATCH_MAX bytes; a read of a register is of GPIOA. -/
def Obligations.TransactionsAreWellFormed : Prop :=
  ∀ (i : Instr) (s t : State), i ≠ .init → s.cfg.wf = true → s.seq = .between → exec i s = .next t →
    ∃ new, t.trace = s.trace ++ new ∧ ∀ x ∈ new,
      (∃ b, x = .wr .gpioa [b]) ∨ (∃ b, x = .wr .iodirb [b]) ∨
        (∃ bs, x = .wr .gpiob bs ∧ 1 ≤ bs.length ∧ bs.length ≤ s.cfg.batchMax) ∨ (∃ b, x = .w1 b) ∨ x = .rr .gpioa ∨ x = .r0

/-- R98 (d), R60: while no transaction fails, each shadow equals the expander's register after every operation but INIT: an expander that agreed
with the shadows before, and got the operation's transactions, agrees with them after (an observer; default configuration). -/
def Obligations.ShadowsFollowTheExpander : Prop :=
  ∀ (i : Instr) (s t : State) (e : Expander), s.cfg = Config.default → i ≠ .init → s.seq = .between →
    s.block.ready = true → s.block.stale = false → ShadowsAgree s.block e →
    exec i s = .next t → t.seq = .between → t.block.stale = false →
    ∃ new, t.trace = s.trace ++ new ∧ ShadowsAgree t.block (e.run s.cfg new)

/-- R54, R56, R150: a step takes nothing back: the transactions, the results and the events so far stay, in order, and the configuration stays. -/
def Obligations.OutputsOnlyGrow : Prop :=
  ∀ s t : State, step s = .next t →
    s.trace <+: t.trace ∧ s.results <+: t.results ∧ s.events <+: t.events ∧ t.cfg = s.cfg

/-- R28: stale is a ghost: with the flag set otherwise, every operation emits the same transactions and gives the same results, and ends in the
same state but for the flag. -/
def Obligations.StaleIsAGhost : Prop :=
  ∀ (i : Instr) (s t : State) (b : Bool), exec i s = .next t →
    ∃ t', exec i (s.withStale b) = .next t' ∧ t'.withStale false = t.withStale false
end

