-- ==== Sys2Proof/Laws/State.lean ====
section
/-!
SUPPORT. The fields of a state after each named update, and what does not depend on a field.
-/

namespace Sys2Proof.Machine

/-! ### complete -/

@[simp] theorem complete_cfg (p : Port) (r : OpResult) (s : State) : (complete p r s).cfg = s.cfg := by cases p <;> rfl
@[simp] theorem complete_block (p : Port) (r : OpResult) (s : State) : (complete p r s).block = s.block := by cases p <;> rfl
@[simp] theorem complete_seq (p : Port) (r : OpResult) (s : State) : (complete p r s).seq = .between := by cases p <;> rfl
@[simp] theorem complete_queued (p : Port) (r : OpResult) (s : State) : (complete p r s).queued = s.queued := by cases p <;> rfl
@[simp] theorem complete_input (p : Port) (r : OpResult) (s : State) : (complete p r s).input = s.input := by cases p <;> rfl
@[simp] theorem complete_offset (p : Port) (r : OpResult) (s : State) : (complete p r s).offset = s.offset := by cases p <;> rfl
@[simp] theorem complete_env (p : Port) (r : OpResult) (s : State) : (complete p r s).env = s.env := by cases p <;> rfl
@[simp] theorem complete_draws (p : Port) (r : OpResult) (s : State) : (complete p r s).draws = s.draws := by cases p <;> rfl
@[simp] theorem complete_trace (p : Port) (r : OpResult) (s : State) : (complete p r s).trace = s.trace := by cases p <;> rfl
@[simp] theorem complete_host_results (r : OpResult) (s : State) : (complete .host r s).results = s.results ++ [r] := rfl
@[simp] theorem complete_host_events (r : OpResult) (s : State) : (complete .host r s).events = s.events := rfl
@[simp] theorem complete_timer_results (r : OpResult) (s : State) : (complete .timer r s).results = s.results := rfl
@[simp] theorem complete_timer_events (r : OpResult) (s : State) : (complete .timer r s).events = s.events ++ [r] := rfl

/-! ### emit -/

section
variable (p : Port) (n : Nat) (a : Act) (as : List Act) (ls : List Line) (s : State)

@[simp] theorem emit_cfg : (emit p n a as ls s).cfg = s.cfg := rfl
@[simp] theorem emit_block : (emit p n a as ls s).block = s.block := rfl
@[simp] theorem emit_seq : (emit p n a as ls s).seq = .running ⟨p, a, as, ls, n + 1⟩ := rfl
@[simp] theorem emit_queued : (emit p n a as ls s).queued = s.queued := rfl
@[simp] theorem emit_input : (emit p n a as ls s).input = s.input := rfl
@[simp] theorem emit_offset : (emit p n a as ls s).offset = s.offset := rfl
@[simp] theorem emit_env : (emit p n a as ls s).env = s.env := rfl
@[simp] theorem emit_draws : (emit p n a as ls s).draws = s.draws := rfl
@[simp] theorem emit_trace : (emit p n a as ls s).trace = s.trace ++ [a.tx] := rfl
@[simp] theorem emit_results : (emit p n a as ls s).results = s.results := rfl
@[simp] theorem emit_events : (emit p n a as ls s).events = s.events := rfl

end

/-! ### Block updates -/

section
variable (bs : List Byte) (blk : Block)

@[simp] theorem setPortB_porta : (setPortB bs blk).porta = blk.porta := rfl
@[simp] theorem setPortB_portb : (setPortB bs blk).portb = bs.getLastD blk.portb := rfl
@[simp] theorem setPortB_ddrb : (setPortB bs blk).ddrb = blk.ddrb := rfl
@[simp] theorem setPortB_ready : (setPortB bs blk).ready = blk.ready := rfl
@[simp] theorem setPortB_stale : (setPortB bs blk).stale = blk.stale := rfl
@[simp] theorem setPortB_notifier : (setPortB bs blk).notifier = blk.notifier := rfl
@[simp] theorem setPortB_prevMask : (setPortB bs blk).prevMask = blk.prevMask := rfl

end

@[simp] theorem afterFrames_nil (blk : Block) : afterFrames blk [] = blk := rfl
@[simp] theorem afterFrames_cons (blk : Block) (bs : List Byte) (wrs : List (List Byte)) :
    afterFrames blk (bs :: wrs) = afterFrames (setPortB bs blk) wrs := rfl

/-- A list of frames changes PORTB alone. -/
theorem afterFrames_frame (wrs : List (List Byte)) : ∀ blk : Block,
    (afterFrames blk wrs).porta = blk.porta ∧ (afterFrames blk wrs).ddrb = blk.ddrb ∧
      (afterFrames blk wrs).ready = blk.ready ∧ (afterFrames blk wrs).stale = blk.stale ∧
      (afterFrames blk wrs).notifier = blk.notifier ∧ (afterFrames blk wrs).prevMask = blk.prevMask := by
  induction wrs with
  | nil => intro blk; exact ⟨rfl, rfl, rfl, rfl, rfl, rfl⟩
  | cons bs wrs ih => intro blk; exact ih (setPortB bs blk)

/-! ### Placing and issuing -/

@[simp] theorem placeNext_input (bytes : List Byte) (s : State) : (placeNext bytes s).input = bytes := rfl
@[simp] theorem placeNext_seq (bytes : List Byte) (s : State) : (placeNext bytes s).seq = .between := rfl
@[simp] theorem placeNext_queued (bytes : List Byte) (s : State) : (placeNext bytes s).queued = [] := rfl
@[simp] theorem placeNext_block (bytes : List Byte) (s : State) : (placeNext bytes s).block = s.block := rfl
@[simp] theorem placeNext_cfg (bytes : List Byte) (s : State) : (placeNext bytes s).cfg = s.cfg := rfl
@[simp] theorem issue_input (bytes : List Byte) (s : State) : (s.issue bytes).input = s.input ++ bytes := rfl
@[simp] theorem giveAnswers_env (as : List Answer) (s : State) : (s.giveAnswers as).env = s.env ++ as := rfl

/-! ### The arming of the notifier (R133) -/

@[simp] theorem armNotifier_porta (cfg : Config) (blk : Block) : (armNotifier cfg blk).porta = blk.porta := by
  unfold armNotifier; split <;> rfl
@[simp] theorem armNotifier_portb (cfg : Config) (blk : Block) : (armNotifier cfg blk).portb = blk.portb := by
  unfold armNotifier; split <;> rfl
@[simp] theorem armNotifier_ddrb (cfg : Config) (blk : Block) : (armNotifier cfg blk).ddrb = blk.ddrb := by
  unfold armNotifier; split <;> rfl
@[simp] theorem armNotifier_ready (cfg : Config) (blk : Block) : (armNotifier cfg blk).ready = blk.ready := by
  unfold armNotifier; split <;> rfl
@[simp] theorem armNotifier_stale (cfg : Config) (blk : Block) : (armNotifier cfg blk).stale = blk.stale := by
  unfold armNotifier; split <;> rfl

/-! ### The result of an operation that ends another (R135) -/

@[simp] theorem OpResult.after_transportError (n : Nat) (x : Tx) (k : Nat) :
    OpResult.after n (.err (.transportError x k)) = .err (.transportError x (k + n)) := rfl
@[simp] theorem OpResult.after_ok (n : Nat) (v : Value) : OpResult.after n (.ok v) = .ok v := rfl
@[simp] theorem OpResult.after_busyTimeout (n l : Nat) :
    OpResult.after n (.err (.busyTimeout l)) = .err (.busyTimeout l) := rfl
@[simp] theorem OpResult.after_notInitialized (n : Nat) : OpResult.after n (.err .notInitialized) = .err .notInitialized := rfl
@[simp] theorem OpResult.after_protocolUsageError (n : Nat) (c : UsageCheck) (v : Nat) :
    OpResult.after n (.err (.protocolUsageError c v)) = .err (.protocolUsageError c v) := rfl

end Sys2Proof.Machine
end

