-- ==== Sys2Proof/Laws/Ops.lean ====
section
/-!
SUPPORT. One lemma for each shared operation that says what it can do: going on with a body, answering a transaction, using up the given
answers, performing an operation, and sending frames or polling when every answer is ok.
-/

namespace Sys2Proof.Machine

/-! ### Equations -/

@[simp] theorem proceed_act (p : Port) (n : Nat) (a : Act) (as : List Act) (ls : List Line) (s : State) :
    proceed p n (a :: as) ls s = emit p n a as ls s := by cases ls <;> rfl

@[simp] theorem proceed_end (p : Port) (n : Nat) (s : State) : proceed p n [] [] s = complete p (.ok .unit) s := rfl

theorem proceed_line (p : Port) (n : Nat) (l : Line) (ls : List Line) (s : State) :
    proceed p n [] (l :: ls) s =
      match l.perform s.cfg s.block with
      | .go blk acts => proceed p n acts ls { s with block := blk }
      | .raise blk e => complete p (.err e) { s with block := blk }
      | .done blk v => complete p (.ok v) { s with block := blk } := rfl

@[simp] theorem drain_nil (s : State) : drain [] s = s := rfl

theorem drain_running {s : State} {r : Running} (h : s.seq = .running r) (a : Answer) (as : List Answer) :
    drain (a :: as) s = drain as (answer a r s) := by simp [drain, h]

/-- Once the operation has ended the answers left over are kept. -/
theorem drain_between {s : State} (h : s.seq = .between) (he : s.env = []) (as : List Answer) :
    drain as s = { s with env := as } := by
  cases as with
  | nil => rw [drain_nil, ← he]
  | cons a as => simp [drain, h]

theorem perform_between {s : State} (h : s.seq = .between) (op : Instr) (p : Port) (body : List Line) :
    perform op p body s = .next (beginOp p body s) := by simp [perform, h]

theorem perform_running {s : State} {r : Running} (h : s.seq = .running r) (op : Instr) (p : Port) (body : List Line) :
    perform op p body s = .next { s with queued := s.queued ++ [op] } := by simp [perform, h]

/-- The sequencer position a body starts from does not matter: it is overwritten. -/
theorem proceed_seq (p : Port) (q : Seq) : ∀ (ls : List Line) (n : Nat) (as : List Act) (s : State),
    proceed p n as ls { s with seq := q } = proceed p n as ls s := by
  intro ls
  induction ls with
  | nil =>
    intro n as s
    cases as with
    | nil => cases p <;> rfl
    | cons a as => rfl
  | cons l ls ih =>
    intro n as s
    cases as with
    | cons a as => rfl
    | nil =>
      simp only [proceed_line]
      cases hl : l.perform s.cfg s.block with
      | go blk acts => exact ih n acts { s with block := blk }
      | raise blk e => cases p <;> rfl
      | done blk v => cases p <;> rfl

/-- Two states that differ at most in the sequencer position lead to the same. -/
theorem proceed_congr (p : Port) (n : Nat) (as : List Act) (ls : List Line) {s t : State}
    (h : t = { s with seq := t.seq }) : proceed p n as ls t = proceed p n as ls s := by rw [h, proceed_seq]

/-! ### What stays while an operation goes on -/

/-- Configuration, waiting operations, stream and draws are the same, and the outputs have only grown. -/
structure Kept (s t : State) : Prop where
  cfg : t.cfg = s.cfg
  queued : t.queued = s.queued
  input : t.input = s.input
  offset : t.offset = s.offset
  draws : t.draws = s.draws
  trace : s.trace <+: t.trace
  results : s.results <+: t.results
  events : s.events <+: t.events

theorem Kept.refl (s : State) : Kept s s :=
  ⟨rfl, rfl, rfl, rfl, rfl, List.prefix_refl _, List.prefix_refl _, List.prefix_refl _⟩

theorem Kept.trans {s t u : State} (h : Kept s t) (k : Kept t u) : Kept s u :=
  ⟨k.cfg.trans h.cfg, k.queued.trans h.queued, k.input.trans h.input, k.offset.trans h.offset, k.draws.trans h.draws,
    h.trace.trans k.trace, h.results.trans k.results, h.events.trans k.events⟩

theorem complete_kept (p : Port) (r : OpResult) (s : State) (blk : Block) :
    Kept s (complete p r { s with block := blk }) := by
  cases p <;> exact ⟨rfl, rfl, rfl, rfl, rfl, List.prefix_refl _, by simp [complete], by simp [complete]⟩

/-- Going on with a body keeps what `Kept` says and the answers. -/
theorem proceed_kept (p : Port) : ∀ (ls : List Line) (n : Nat) (as : List Act) (s : State),
    Kept s (proceed p n as ls s) ∧ (proceed p n as ls s).env = s.env := by
  have hemit : ∀ (n : Nat) (a : Act) (as : List Act) (ls : List Line) (s : State), Kept s (emit p n a as ls s) :=
    fun n a as ls s => ⟨rfl, rfl, rfl, rfl, rfl, List.prefix_append _ _, List.prefix_refl _, List.prefix_refl _⟩
  intro ls
  induction ls with
  | nil =>
    intro n as s
    cases as with
    | nil => exact ⟨complete_kept p _ s s.block, by simp⟩
    | cons a as => rw [proceed_act]; exact ⟨hemit _ _ _ _ _, rfl⟩
  | cons l ls ih =>
    intro n as s
    cases as with
    | cons a as => rw [proceed_act]; exact ⟨hemit _ _ _ _ _, rfl⟩
    | nil =>
      rw [proceed_line]
      split
      · rename_i blk acts _
        have h := ih n acts { s with block := blk }
        exact ⟨⟨h.1.cfg, h.1.queued, h.1.input, h.1.offset, h.1.draws, h.1.trace, h.1.results, h.1.events⟩, h.2⟩
      · exact ⟨complete_kept _ _ _ _, by simp⟩
      · exact ⟨complete_kept _ _ _ _, by simp⟩

/-- An answer keeps what `Kept` says and the answers to come. -/
theorem answer_kept (a : Answer) (r : Running) (s : State) :
    Kept s (answer a r s) ∧ (answer a r s).env = s.env := by
  cases a with
  | error => exact ⟨complete_kept _ _ _ _, by simp [answer]⟩
  | ok d =>
    simp only [answer]
    split
    · rename_i blk acts _
      have h := proceed_kept r.port r.lines r.emitted (acts ++ r.acts) { s with block := blk }
      exact ⟨⟨h.1.cfg, h.1.queued, h.1.input, h.1.offset, h.1.draws, h.1.trace, h.1.results, h.1.events⟩, h.2⟩
    · exact ⟨complete_kept _ _ _ _, by simp⟩
    · exact ⟨complete_kept _ _ _ _, by simp⟩

theorem Kept.setEnv {s t : State} (h : Kept s t) (e : List Answer) : Kept s { t with env := e } :=
  ⟨h.cfg, h.queued, h.input, h.offset, h.draws, h.trace, h.results, h.events⟩

/-- Using up the given answers keeps what `Kept` says. -/
theorem drain_kept : ∀ (as : List Answer) (s : State), Kept s (drain as s) := by
  intro as
  induction as with
  | nil => exact Kept.refl
  | cons a as ih =>
    intro s
    cases hq : s.seq with
    | between => simpa [drain, hq] using (Kept.refl s).setEnv (a :: as)
    | running r => rw [drain_running hq]; exact (answer_kept a r s).1.trans (ih _)

/-- A property of states that every answer keeps and that does not look at the answers is kept while answers are used up. -/
theorem drain_induction {P : State → Prop} (hans : ∀ a r s, P s → s.seq = .running r → P (answer a r s))
    (henv : ∀ s e, P s → P { s with env := e }) : ∀ (as : List Answer) (s : State), P s → P (drain as s) := by
  intro as
  induction as with
  | nil => exact fun _ h => h
  | cons a as ih =>
    intro s h
    cases hq : s.seq with
    | between => simpa [drain, hq] using henv s (a :: as) h
    | running r => rw [drain_running hq]; exact ih _ (hans a r s h hq)

/-- Answers given in two parts: where the first part leaves the operation in progress, it goes on with the second. -/
theorem drain_append : ∀ (as bs : List Answer) (s : State) (r : Running), (drain as s).seq = .running r →
    drain (as ++ bs) s = drain bs (drain as s) := by
  intro as
  induction as with
  | nil => intros; rfl
  | cons a as ih =>
    intro bs s r h
    cases hq : s.seq with
    | between => simp [drain, hq] at h
    | running q =>
      rw [drain_running hq] at h
      rw [List.cons_append, drain_running hq, drain_running hq, ih bs _ r h]

/-- An operation that is still in progress has used up the answers. -/
theorem drain_running_env : ∀ (as : List Answer) (s : State) (r : Running), s.env = [] → (drain as s).seq = .running r →
    (drain as s).env = [] := by
  intro as
  induction as with
  | nil => exact fun _ _ he _ => he
  | cons a as ih =>
    intro s r he h
    cases hq : s.seq with
    | between => simp [drain, hq] at h
    | running q =>
      rw [drain_running hq] at h ⊢
      exact ih _ r ((answer_kept a q s).2.trans he) h

/-- Performing a body keeps what `Kept` says. -/
theorem beginOp_kept (p : Port) (body : List Line) (s : State) : Kept s (beginOp p body s) := by
  have h0 : Kept s { s with env := [] } := (Kept.refl s).setEnv []
  exact (h0.trans (proceed_kept p body 0 [] { s with env := [] }).1).trans (drain_kept s.env _)

/-! ### Bodies whose answers are ok -/

theorem answer_go {d : Byte} {r : Running} {s : State} {blk : Block} {acts : List Act}
    (h : r.act.onOk s.cfg s.block d = .go blk acts) :
    answer (.ok d) r s = proceed r.port r.emitted (acts ++ r.acts) r.lines { s with block := blk } := by
  simp [answer, h]

/-- R91, R106: WRs of frames answered ok are sent in order, PORTB ends at the last byte, and the body goes on with its next line. -/
theorem drain_frames (p : Port) (ls : List Line) : ∀ (wrs : List (List Byte)) (as rest : List Answer) (n : Nat) (s : State),
    as.length = wrs.length → allOk as = true →
    drain (as ++ rest) (proceed p n (wrs.map .sendFrames) ls s) =
      drain rest (proceed p (n + wrs.length) [] ls
        { s with block := afterFrames s.block wrs, trace := s.trace ++ wrs.map frameTx }) := by
  intro wrs
  induction wrs with
  | nil =>
    intro as rest n s hlen _
    have : as = [] := List.eq_nil_of_length_eq_zero hlen
    subst this
    simp
  | cons bs wrs ih =>
    intro as rest n s hlen hok
    cases as with
    | nil => simp at hlen
    | cons a as =>
      simp only [allOk, List.all_cons, Bool.and_eq_true] at hok
      cases a with
      | error => simp [Answer.isOk] at hok
      | ok d =>
        simp only [List.map_cons, proceed_act, List.cons_append]
        rw [drain_running (emit_seq _ _ _ _ _ _), answer_go (blk := setPortB bs s.block) (acts := []) rfl]
        simp only [List.nil_append]
        rw [proceed_congr (s := { s with block := setPortB bs s.block, trace := s.trace ++ [frameTx bs] }) (h := rfl),
          ih as rest (n + 1) _ (by simpa using hlen) hok.2,
          show n + 1 + wrs.length = n + (bs :: wrs).length by simp only [List.length_cons]; omega]
        simp

/-- One iteration of the busy poll whose three transactions are answered ok, up to DECIDE (R101). -/
theorem drain_poll_iteration (p : Port) (ls : List Line) (lo hi d d' r : Byte) (k n : Nat) (rest : List Answer) (s : State) :
    drain (.ok d :: .ok r :: .ok d' :: rest) (proceed p n [.pollStrobeHi lo hi k] ls s) =
      drain rest
        (match pollDecide s.cfg { s.block with portb := lo } lo hi (k + 1) r with
        | .go blk acts => proceed p (n + 3) acts ls
            { s with block := blk, trace := s.trace ++ [Tx.w1 hi, Tx.r0, Tx.wr .gpiob [lo, hi, lo]] }
        | .raise blk e => complete p (.err e)
            { s with block := blk, trace := s.trace ++ [Tx.w1 hi, Tx.r0, Tx.wr .gpiob [lo, hi, lo]] }
        | .done blk v => complete p (.ok v)
            { s with block := blk, trace := s.trace ++ [Tx.w1 hi, Tx.r0, Tx.wr .gpiob [lo, hi, lo]] }) := by
  rw [proceed_act, drain_running (emit_seq _ _ _ _ _ _), answer_go (blk := { s.block with portb := hi })
    (acts := [.pollRead lo hi k]) rfl]
  simp only [List.append_nil, proceed_act]
  rw [drain_running (emit_seq _ _ _ _ _ _), answer_go (blk := { s.block with portb := hi })
    (acts := [.pollStrobeRest lo hi k r]) rfl]
  simp only [List.append_nil, proceed_act]
  rw [drain_running (emit_seq _ _ _ _ _ _)]
  simp only [answer, Act.onOk, emit_cfg, emit_block]
  have hb : setPortB [lo, hi, lo] { s.block with portb := hi } = { s.block with portb := lo } := rfl
  rw [hb]
  cases pollDecide s.cfg { s.block with portb := lo } lo hi (k + 1) r with
  | go blk acts =>
    simp only [List.append_nil]
    rw [proceed_congr (s := { s with
      block := blk, trace := s.trace ++ [Tx.w1 hi, Tx.r0, Tx.wr .gpiob [lo, hi, lo]] }) (h := by simp [emit, Act.tx])]
  | raise blk e => cases p <;> simp [complete, emit, Act.tx]
  | done blk v => cases p <;> simp [complete, emit, Act.tx]

end Sys2Proof.Machine
end

