-- ==== Sys2Proof/Laws/Poll.lean ====
section
/-!
SUPPORT. What a busy poll does, as one lemma over its number of iterations (41_lcd_engine.md R101, R104).
-/

namespace Sys2Proof.Machine

/-- R104: a bound not reached after n busy reads was not reached before. -/
theorem pollExpired_mono {cfg : Config} {m n : Nat} (h : pollExpired cfg n = false) (hmn : m ≤ n) :
    pollExpired cfg m = false := by
  unfold pollExpired at *
  cases hl : cfg.pollLimit with
  | none => rfl
  | some l => simp [hl] at h ⊢; omega

/-- The three transactions of one iteration. -/
def iterTxs (lo hi : Byte) : List Tx := [Tx.w1 hi, Tx.r0, Tx.wr .gpiob [lo, hi, lo]]

/-- The three answers of one iteration that reads r. -/
def iterAnswers (d r : Byte) : List Answer := [.ok d, .ok r, .ok d]

theorem pollAnswers_eq (d : Byte) (reads : List Byte) :
    pollAnswers d reads = .ok d :: reads.flatMap (iterAnswers d) := rfl

theorem pollTxs_eq (lo hi : Byte) (n : Nat) :
    pollTxs lo hi n = .wr .gpiob [lo] :: (List.replicate n (iterTxs lo hi)).flatten := rfl

/-- Busy reads below the bound: one iteration each, and the poll strobes again. -/
theorem drain_poll_busy (p : Port) (ls : List Line) (lo hi d : Byte) (rest : List Answer) :
    ∀ (busy : List Byte) (k n : Nat) (s : State), s.block.portb = lo →
      (∀ x ∈ busy, busyFlag s.cfg x = true) → pollExpired s.cfg (k + busy.length) = false →
      drain (busy.flatMap (iterAnswers d) ++ rest) (proceed p n [.pollStrobeHi lo hi k] ls s) =
        drain rest (proceed p (n + 3 * busy.length) [.pollStrobeHi lo hi (k + busy.length)] ls
          { s with trace := s.trace ++ (List.replicate busy.length (iterTxs lo hi)).flatten }) := by
  intro busy
  induction busy with
  | nil => intro k n s _ _ _; simp
  | cons x busy ih =>
    intro k n s hlo hbusy hexp
    have hx : busyFlag s.cfg x = true := hbusy x (by simp)
    have hk : pollExpired s.cfg (k + 1) = false :=
      pollExpired_mono hexp (by simp only [List.length_cons]; omega)
    have hblk : ({ s.block with portb := lo } : Block) = s.block := by rw [← hlo]
    have hdec : pollDecide s.cfg { s.block with portb := lo } lo hi (k + 1) x = .go s.block [.pollStrobeHi lo hi (k + 1)] := by
      rw [hblk]; simp [pollDecide, hx, hk]
    simp only [List.flatMap_cons, iterAnswers, List.cons_append, List.nil_append]
    rw [drain_poll_iteration, hdec]
    simp only
    have h := ih (k + 1) (n + 3) { s with trace := s.trace ++ iterTxs lo hi } hlo
      (fun y hy => hbusy y (by simp [hy])) (by rw [← hexp]; congr 1; simp only [List.length_cons]; omega)
    rw [show (n + 3 * (x :: busy).length) = n + 3 + 3 * busy.length by simp only [List.length_cons]; omega,
      show k + (x :: busy).length = k + 1 + busy.length by simp only [List.length_cons]; omega]
    refine h.trans ?_
    simp [List.replicate_succ]

/-- R100, R101: a prologue that polls, up to the strobe of its first iteration. -/
theorem drain_poll_setup (p : Port) (ls : List Line) (d : Byte) (rest : List Answer) (n : Nat) (s : State)
    (hr : s.block.ready = true) (hds : displayState s.cfg s.block = .commandPolling) :
    drain (.ok d :: rest) (proceed p n [] (.prologue :: ls) s) =
      drain rest (proceed p (n + 1) [.pollStrobeHi (pollLo s.cfg s.block) (pollHi s.cfg s.block) 0] ls
        { s with
          block := { s.block with portb := pollLo s.cfg s.block }
          trace := s.trace ++ [.wr .gpiob [pollLo s.cfg s.block]] }) := by
  have hl : Line.perform s.cfg s.block .prologue =
      .go s.block [.pollSetup (pollLo s.cfg s.block) (pollHi s.cfg s.block)] := by
    simp [Line.perform, lcdPrologue, hr, hds]
  rw [proceed_line, hl]
  simp only [proceed_act]
  rw [drain_running (emit_seq _ _ _ _ _ _), answer_go (blk := setPortB [pollLo s.cfg s.block] s.block)
    (acts := [.pollStrobeHi (pollLo s.cfg s.block) (pollHi s.cfg s.block) 0]) rfl]
  simp [emit, setPortB, Act.tx]

/-- R100, R101: a prologue that polls, all its answers ok and its last read not busy: D7 is an output after it. -/
theorem drain_poll (p : Port) (ls : List Line) (busy : List Byte) (r d d' : Byte) (rest : List Answer) (n : Nat) (s : State)
    (hr : s.block.ready = true) (hds : displayState s.cfg s.block = .commandPolling) (he : PollEnds s.cfg busy r) :
    drain (pollAnswers d (busy ++ [r]) ++ .ok d' :: rest) (proceed p n [] (.prologue :: ls) s) =
      drain rest (proceed p (n + 3 * busy.length + 5) [] ls
        { s with
          block := afterPoll s.cfg s.block
          trace := s.trace ++ wholePoll s.cfg s.block (busy.length + 1) }) := by
  obtain ⟨hbusy, hnot, hexp⟩ := he
  simp only [pollAnswers_eq, List.flatMap_append, List.flatMap_cons, List.flatMap_nil, List.append_nil, List.cons_append,
    List.append_assoc]
  rw [drain_poll_setup p ls d _ n s hr hds]
  generalize hlo : pollLo s.cfg s.block = lo
  generalize hhi : pollHi s.cfg s.block = hi
  rw [drain_poll_busy p ls lo hi d _ busy 0 (n + 1)
    { s with block := { s.block with portb := lo }, trace := s.trace ++ [.wr .gpiob [lo]] } rfl hbusy (by simpa using hexp)]
  simp only [iterAnswers, List.cons_append, List.nil_append]
  rw [drain_poll_iteration]
  have hdec : ∀ m, pollDecide s.cfg { s.block with portb := lo } lo hi m r =
      .go { s.block with portb := lo } [.pollExit (s.block.ddrb &&& ~~~s.cfg.ddrbD7Dir)] := by
    intro m; simp [pollDecide, hnot]
  simp only [hdec, proceed_act]
  rw [drain_running (emit_seq _ _ _ _ _ _), answer_go
    (blk := { s.block with portb := lo, ddrb := s.block.ddrb &&& ~~~s.cfg.ddrbD7Dir }) (acts := []) rfl]
  simp only [List.append_nil]
  rw [proceed_congr (s := { s with
      block := afterPoll s.cfg s.block
      trace := s.trace ++ wholePoll s.cfg s.block (busy.length + 1) })]
  · congr 2; omega
  · simp [emit, Act.tx, afterPoll, wholePoll, pollTxs_eq, iterTxs, hlo, hhi, List.replicate_succ']

/-- R104: busy reads up to the bound end the operation with BusyTimeout, nothing after the poll having been done. -/
theorem drain_poll_timeout (ls : List Line) (busy : List Byte) (l : Nat) (d : Byte) (rest : List Answer) (n : Nat)
    (s : State) (p : Port) (hr : s.block.ready = true) (hds : displayState s.cfg s.block = .commandPolling)
    (hl : s.cfg.pollLimit = some l) (hl1 : 1 ≤ l) (hlen : busy.length = l) (hbusy : ∀ x ∈ busy, busyFlag s.cfg x = true) :
    drain (pollAnswers d busy ++ rest) (proceed p n [] (.prologue :: ls) s) =
      drain rest (complete p (.err (.busyTimeout l))
        { s with
          block := { s.block with portb := pollLo s.cfg s.block }
          trace := s.trace ++ pollTxs (pollLo s.cfg s.block) (pollHi s.cfg s.block) l }) := by
  obtain ⟨init, x, rfl⟩ : ∃ init x, busy = init ++ [x] :=
    ⟨busy.dropLast, busy.getLast (by intro h; simp [h] at hlen; omega), (List.dropLast_append_getLast _).symm⟩
  have hil : init.length + 1 = l := by simpa using hlen
  simp only [pollAnswers_eq, List.flatMap_append, List.flatMap_cons, List.flatMap_nil, List.append_nil, List.cons_append,
    List.append_assoc]
  rw [drain_poll_setup p ls d _ n s hr hds]
  generalize hlo : pollLo s.cfg s.block = lo
  generalize hhi : pollHi s.cfg s.block = hi
  rw [drain_poll_busy p ls lo hi d _ init 0 (n + 1)
    { s with block := { s.block with portb := lo }, trace := s.trace ++ [.wr .gpiob [lo]] } rfl (fun y hy => hbusy y (by simp [hy]))
    (by simp [pollExpired, hl]; omega)]
  simp only [iterAnswers, List.cons_append, List.nil_append]
  rw [drain_poll_iteration]
  have hx : busyFlag s.cfg x = true := hbusy x (by simp)
  have hdec : pollDecide s.cfg { s.block with portb := lo } lo hi (0 + init.length + 1) x =
      .raise { s.block with portb := lo } (.busyTimeout l) := by
    simp [pollDecide, hx, pollExpired, hl, ← hil]
  simp only [hdec]
  congr 2
  simp [pollTxs_eq, iterTxs, ← hil, List.replicate_succ']

end Sys2Proof.Machine
end

