-- ==== Sys2Proof/Laws/Lines.lean ====
section
/-!
SUPPORT. The body of every operation that has an opcode, and what one line of a body does when the operation goes on past it.
-/

namespace Sys2Proof.Machine

/-! ### The body of an operation -/

/-- R138 (d): where the result of an operation goes. -/
def portOf : Instr → Port
  | .tick => .timer
  | _ => .host

/-- The body of an operation; LCDBOOT has none of its own. -/
def bodyOf (cfg : Config) : Instr → List Line
  | .init => initBody cfg
  | .instr b => instrBody b
  | .data b => dataBody b
  | .instrs bs => seqBody false bs
  | .datas bs => seqBody true bs
  | .clear => instrBody cfg.cmdClear
  | .home => instrBody cfg.cmdHome
  | .backlight color => backlightBody color
  | .createchar slot pat => createcharBody cfg slot pat
  | .text t => textBody cfg false t
  | .textc t => textBody cfg true t
  | .sample => sampleBody
  | .name mask => nameBody mask
  | .tick => tickBody
  | .close => closeBody
  | .lcdboot => []

/-- Every operation but LCDBOOT is performed from its body. -/
theorem exec_eq_perform (i : Instr) (s : State) (h : i ≠ .lcdboot) :
    exec i s = perform i (portOf i) (bodyOf s.cfg i) s := by
  cases i <;> first | rfl | exact absurd rfl h

theorem exec_between {i : Instr} {s : State} (h : i ≠ .lcdboot) (hq : s.seq = .between) :
    exec i s = .next (beginOp (portOf i) (bodyOf s.cfg i) s) := by
  rw [exec_eq_perform i s h, perform_between hq]

theorem exec_running {i : Instr} {s : State} {r : Running} (hq : s.seq = .running r) :
    exec i s = .next { s with queued := s.queued ++ i.expand } := by
  by_cases h : i = .lcdboot
  · subst h; simp [exec, execLcdboot, hq, Instr.expand]
  · rw [exec_eq_perform i s h, perform_running hq]
    cases i <;> first | rfl | exact absurd rfl h

theorem exec_lcdboot_between {s : State} (hq : s.seq = .between) :
    exec .lcdboot s = .next (instrSequence lcdbootBytes s) := by simp [exec, execLcdboot, hq]

/-! ### Lines -/

theorem proceed_ready (p : Port) (n : Nat) (ls : List Line) (s : State) (h : s.block.ready = true) :
    proceed p n [] (.requireReady :: ls) s = proceed p n [] ls s := by
  simp [proceed_line, Line.perform, requireReady, h]

theorem proceed_notReady (p : Port) (n : Nat) (ls : List Line) (s : State) (h : s.block.ready = false) :
    proceed p n [] (.requireReady :: ls) s = complete p (.err .notInitialized) s := by
  simp [proceed_line, Line.perform, requireReady, h]

theorem proceed_prologue_notReady (p : Port) (n : Nat) (ls : List Line) (s : State) (h : s.block.ready = false) :
    proceed p n [] (.prologue :: ls) s = complete p (.err .notInitialized) s := by
  simp [proceed_line, Line.perform, lcdPrologue, h]

theorem proceed_prologue_idle (p : Port) (n : Nat) (ls : List Line) (s : State) (hr : s.block.ready = true)
    (hd : displayState s.cfg s.block = .idle) : proceed p n [] (.prologue :: ls) s = proceed p n [] ls s := by
  simp [proceed_line, Line.perform, lcdPrologue, hr, hd]

theorem proceed_emitByte (p : Port) (n : Nat) (ls : List Line) (c : Bool) (v : Byte) (s : State) :
    proceed p n [] (.emitByte c v :: ls) s =
      proceed p n ([frame s.cfg (base s.cfg s.block c) v].map .sendFrames) ls s := by
  simp [proceed_line, Line.perform]

theorem proceed_emitSeq (p : Port) (n : Nat) (ls : List Line) (c : Bool) (vs : List Byte) (s : State) :
    proceed p n [] (.emitSeq c vs :: ls) s =
      proceed p n ((batches s.cfg (base s.cfg s.block c) vs).map .sendFrames) ls s := by
  simp [proceed_line, Line.perform]

theorem proceed_notSlow (p : Port) (n : Nat) (ls : List Line) (b : Byte) (s : State) (h : isSlow s.cfg b = false) :
    proceed p n [] (.slowStep b :: ls) s = proceed p n [] ls s := by
  simp [proceed_line, Line.perform, h]

theorem proceed_slow (p : Port) (n : Nat) (ls : List Line) (b : Byte) (s : State) (h : isSlow s.cfg b = true) :
    proceed p n [] (.slowStep b :: ls) s =
      emit p n (.setDirectionB (s.block.ddrb ||| s.cfg.ddrbD7Dir)) [] ls s := by
  simp [proceed_line, Line.perform, h]

/-- R108: the direction write of a slow byte, answered ok. -/
theorem drain_slow (p : Port) (n : Nat) (ls : List Line) (b d : Byte) (rest : List Answer) (s : State)
    (h : isSlow s.cfg b = true) :
    drain (.ok d :: rest) (proceed p n [] (.slowStep b :: ls) s) =
      drain rest (proceed p (n + 1) [] ls
        { s with
          block := { s.block with ddrb := s.block.ddrb ||| s.cfg.ddrbD7Dir }
          trace := s.trace ++ [.wr .iodirb [s.block.ddrb ||| s.cfg.ddrbD7Dir]] }) := by
  rw [proceed_slow p n ls b s h, drain_running (emit_seq _ _ _ _ _ _),
    answer_go (blk := { s.block with ddrb := s.block.ddrb ||| s.cfg.ddrbD7Dir }) (acts := []) rfl]
  simp only [List.append_nil]
  rw [proceed_congr]
  simp [emit, Act.tx]

/-- R105: the one frame of a byte, answered ok. -/
theorem drain_emitByte (p : Port) (n : Nat) (ls : List Line) (c : Bool) (v d : Byte) (rest : List Answer) (s : State) :
    drain (.ok d :: rest) (proceed p n [] (.emitByte c v :: ls) s) =
      drain rest (proceed p (n + 1) [] ls
        { s with
          block := { s.block with portb := base s.cfg s.block c ||| flipTable s.cfg (lowNibble v) }
          trace := s.trace ++ [frameTx (frame s.cfg (base s.cfg s.block c) v)] }) := by
  rw [proceed_emitByte]
  exact drain_frames p ls [frame s.cfg (base s.cfg s.block c) v] [.ok d] rest n s rfl rfl

/-- R106: the batches of a sequence, answered ok. -/
theorem drain_emitSeq (p : Port) (n : Nat) (ls : List Line) (c : Bool) (vs : List Byte) (as rest : List Answer) (s : State)
    (hlen : as.length = (batches s.cfg (base s.cfg s.block c) vs).length) (hok : allOk as = true) :
    drain (as ++ rest) (proceed p n [] (.emitSeq c vs :: ls) s) =
      drain rest (proceed p (n + (batches s.cfg (base s.cfg s.block c) vs).length) [] ls
        { s with
          block := afterFrames s.block (batches s.cfg (base s.cfg s.block c) vs)
          trace := s.trace ++ (batches s.cfg (base s.cfg s.block c) vs).map frameTx }) := by
  rw [proceed_emitSeq]
  exact drain_frames p ls _ as rest n s hlen hok

/-- An operation that has ended leaves the answers it did not use. -/
theorem drain_complete (p : Port) (r : OpResult) (s : State) (h : s.env = []) (rest : List Answer) :
    drain rest (complete p r s) = { complete p r s with env := rest } :=
  drain_between (complete_seq _ _ _) (by simp [h]) rest

/-- A transaction answered `error` ends the operation (R138). -/
theorem drain_error (p : Port) (n : Nat) (a : Act) (as : List Act) (ls : List Line) (rest : List Answer) (s : State)
    (h : s.env = []) :
    drain (.error :: rest) (emit p n a as ls s) =
      { complete p (.err (.transportError a.tx (n + 1)))
          { s with block := { s.block with stale := true }, trace := s.trace ++ [a.tx] } with env := rest } := by
  rw [drain_running (emit_seq _ _ _ _ _ _)]
  simp only [answer, emit_block]
  rw [drain_complete _ _ _ (by simp [h])]
  cases p <;> rfl

end Sys2Proof.Machine
end

