-- ==== Sys2Proof/Laws/PerInstr.lean ====
section
/-!
SUPPORT. For every instruction as syntax: its bytes are not empty, and where it has an opcode of its own its first bytes say how many
there are, so that no operation's bytes begin another's (30_encoding.md R79).
-/

namespace Sys2Proof.Laws.EncodedLength

/-- What is said of an instruction. -/
def Statement (i : Instr) : Prop :=
  encode i ≠ [] ∧ (i.wf = true → i.isCore = true → bytesNeeded (encode i) = (encode i).length)

theorem byte_toNat (n : Nat) (h : n < 65536) :
    (BitVec.ofNat 8 (n / 256)).toNat * 256 + (BitVec.ofNat 8 (n % 256)).toNat = n := by
  simp only [BitVec.toNat_ofNat]
  omega

theorem blob_length (bs : List Byte) : (encodeBlob bs).length = 2 + bs.length := by
  simp [encodeBlob, encodeLen]; omega

theorem blob_statement (op : Byte) (bs : List Byte) (h : bs.length < 65536)
    (hop : bytesNeeded (op :: encodeBlob bs) = 3 +
      ((BitVec.ofNat 8 (bs.length / 256)).toNat * 256 + (BitVec.ofNat 8 (bs.length % 256)).toNat)) :
    bytesNeeded (op :: encodeBlob bs) = (op :: encodeBlob bs).length := by
  rw [hop, byte_toNat _ h, List.length_cons, blob_length]
  omega

theorem init : Statement .init := ⟨by simp [encode], fun _ _ => rfl⟩
theorem instr (b : Byte) : Statement (.instr b) := ⟨by simp [encode], fun _ _ => rfl⟩
theorem data (b : Byte) : Statement (.data b) := ⟨by simp [encode], fun _ _ => rfl⟩
theorem instrs (bs : List Byte) : Statement (.instrs bs) :=
  ⟨by simp [encode], fun h _ => blob_statement 0x22 bs (by simpa [Instr.wf, blobLenOk] using h) rfl⟩
theorem datas (bs : List Byte) : Statement (.datas bs) :=
  ⟨by simp [encode], fun h _ => blob_statement 0x23 bs (by simpa [Instr.wf, blobLenOk] using h) rfl⟩
theorem clear : Statement .clear := ⟨by simp [encode], fun _ _ => rfl⟩
theorem home : Statement .home := ⟨by simp [encode], fun _ _ => rfl⟩
theorem backlight (color : Byte) : Statement (.backlight color) := ⟨by simp [encode], fun _ _ => rfl⟩
theorem createchar (slot : Byte) (pat : List Byte) : Statement (.createchar slot pat) := by
  refine ⟨by simp [encode], fun h _ => ?_⟩
  have hn : pat.length < 65536 := by simpa [Instr.wf, blobLenOk] using h
  have hb : bytesNeeded (encode (.createchar slot pat)) = 4 +
      ((BitVec.ofNat 8 (pat.length / 256)).toNat * 256 + (BitVec.ofNat 8 (pat.length % 256)).toNat) := rfl
  have hl : (encode (.createchar slot pat)).length = 4 + pat.length := by
    show (0x50 :: slot :: encodeBlob pat).length = _
    rw [List.length_cons, List.length_cons, blob_length]; omega
  rw [hb, hl, byte_toNat _ hn]
theorem text (t : List Byte) : Statement (.text t) :=
  ⟨by simp [encode], fun h _ => blob_statement 0x60 t (by simpa [Instr.wf, blobLenOk] using h) rfl⟩
theorem textc (t : List Byte) : Statement (.textc t) :=
  ⟨by simp [encode], fun h _ => blob_statement 0x61 t (by simpa [Instr.wf, blobLenOk] using h) rfl⟩
theorem sample : Statement .sample := ⟨by simp [encode], fun _ _ => rfl⟩
theorem name (mask : Byte) : Statement (.name mask) := ⟨by simp [encode], fun _ _ => rfl⟩
theorem tick : Statement .tick := ⟨by simp [encode], fun _ _ => rfl⟩
theorem close : Statement .close := ⟨by simp [encode], fun _ _ => rfl⟩
theorem lcdboot : Statement .lcdboot := ⟨by simp [encode, lcdbootBytes], fun _ h => by simp [Instr.isCore] at h⟩

end Sys2Proof.Laws.EncodedLength
end

