-- ==== Sys2Proof/Laws/Pins.lean ====
section
/-!
SUPPORT. What a well-formed configuration says of the pins (00_scope.md R10): the PORTB masks are disjoint, so that frames leave the
blue bit and end with E low, and a poll leaves D7 an output.
-/

namespace Sys2Proof.Machine

/-! ### Single bits -/

theorem singleBit_cases : ∀ m : Byte, singleBit m = true →
    m = 0x01 ∨ m = 0x02 ∨ m = 0x04 ∨ m = 0x08 ∨ m = 0x10 ∨ m = 0x20 ∨ m = 0x40 ∨ m = 0x80 := by decide

theorem singleBit_disjoint {a b : Byte} (ha : singleBit a = true) (hb : singleBit b = true) (h : a ≠ b) : a &&& b = 0 := by
  rcases singleBit_cases a ha with rfl | rfl | rfl | rfl | rfl | rfl | rfl | rfl <;>
    rcases singleBit_cases b hb with rfl | rfl | rfl | rfl | rfl | rfl | rfl | rfl <;>
      first | exact absurd rfl h | decide

/-! ### The checks of a well-formed configuration -/

theorem wf_checks {cfg : Config} (h : cfg.wf = true) :
    cfg.portbPinsOk = true ∧ cfg.colourPinsOk = true ∧ cfg.directionBitsOk = true ∧ cfg.batchMaxOk = true ∧
      cfg.initBlockOk = true ∧ cfg.pollLimitOk = true := by
  unfold Config.wf Config.firstFailure at h
  cases h1 : cfg.portbPinsOk <;> cases h2 : cfg.colourPinsOk <;> cases h3 : cfg.directionBitsOk <;>
    cases h4 : cfg.batchMaxOk <;> cases h5 : cfg.initBlockOk <;> cases h6 : cfg.pollLimitOk <;> simp_all

theorem wf_batchMax {cfg : Config} (h : cfg.wf = true) : 4 ≤ cfg.batchMax ∧ cfg.batchMax % 4 = 0 := by
  have h4 := (wf_checks h).2.2.2.1
  simp [Config.batchMaxOk] at h4
  omega

/-- The eight PORTB masks are single bits, and each two are disjoint. -/
structure PinsOk (cfg : Config) : Prop where
  single : ∀ m ∈ cfg.portbMasks, singleBit m = true
  disjoint : cfg.portbMasks.Pairwise fun a b => a &&& b = 0

theorem wf_pins {cfg : Config} (h : cfg.wf = true) : PinsOk cfg := by
  have h1 := (wf_checks h).1
  simp only [Config.portbPinsOk, Bool.and_eq_true, List.all_eq_true, decide_eq_true_eq] at h1
  refine ⟨h1.1.1, ?_⟩
  exact (List.Pairwise.and_mem.1 h1.1.2).imp fun {a b} ⟨ha, hb, hne⟩ =>
    singleBit_disjoint (h1.1.1 a ha) (h1.1.1 b hb) hne

/-- What `PinsOk` says, pin by pin, of the pins a frame or a poll raises. -/
theorem wf_disjoint {cfg : Config} (h : cfg.wf = true) :
    (cfg.pinRS &&& cfg.pinRW = 0 ∧ cfg.pinRS &&& cfg.pinE = 0 ∧ cfg.pinRS &&& cfg.pinD4 = 0 ∧ cfg.pinRS &&& cfg.pinD5 = 0 ∧
      cfg.pinRS &&& cfg.pinD6 = 0 ∧ cfg.pinRS &&& cfg.pinD7 = 0 ∧ cfg.pinRS &&& cfg.pinBlue = 0) ∧
    (cfg.pinRW &&& cfg.pinE = 0 ∧ cfg.pinRW &&& cfg.pinD4 = 0 ∧ cfg.pinRW &&& cfg.pinD5 = 0 ∧
      cfg.pinRW &&& cfg.pinD6 = 0 ∧ cfg.pinRW &&& cfg.pinD7 = 0 ∧ cfg.pinRW &&& cfg.pinBlue = 0) ∧
    (cfg.pinE &&& cfg.pinD4 = 0 ∧ cfg.pinE &&& cfg.pinD5 = 0 ∧ cfg.pinE &&& cfg.pinD6 = 0 ∧ cfg.pinE &&& cfg.pinD7 = 0 ∧
      cfg.pinE &&& cfg.pinBlue = 0) ∧
    (cfg.pinD4 &&& cfg.pinD5 = 0 ∧ cfg.pinD4 &&& cfg.pinD6 = 0 ∧ cfg.pinD4 &&& cfg.pinD7 = 0 ∧
      cfg.pinD4 &&& cfg.pinBlue = 0) ∧
    (cfg.pinD5 &&& cfg.pinD6 = 0 ∧ cfg.pinD5 &&& cfg.pinD7 = 0 ∧ cfg.pinD5 &&& cfg.pinBlue = 0) ∧
    (cfg.pinD6 &&& cfg.pinD7 = 0 ∧ cfg.pinD6 &&& cfg.pinBlue = 0) ∧ cfg.pinD7 &&& cfg.pinBlue = 0 := by
  have hd := (wf_pins h).disjoint
  simp only [Config.portbMasks, List.pairwise_cons, List.mem_cons, List.not_mem_nil, forall_eq_or_imp, or_false] at hd
  simp_all

/-! ### Masks -/

theorem or_and_eq_zero {a b m : Byte} (ha : a &&& m = 0) (hb : b &&& m = 0) : (a ||| b) &&& m = 0 := by
  rw [BitVec.and_comm, BitVec.and_or_distrib_left, BitVec.and_comm m a, BitVec.and_comm m b, ha, hb]; rfl

theorem maskIf_and_eq_zero {a m : Byte} (c : Bool) (h : a &&& m = 0) : maskIf c a &&& m = 0 := by
  cases c
  · simp [maskIf]
  · simpa [maskIf] using h

theorem flipTable_and_eq_zero {cfg : Config} {m : Byte} (h4 : cfg.pinD4 &&& m = 0) (h5 : cfg.pinD5 &&& m = 0)
    (h6 : cfg.pinD6 &&& m = 0) (h7 : cfg.pinD7 &&& m = 0) (n : BitVec 4) : flipTable cfg n &&& m = 0 :=
  or_and_eq_zero (or_and_eq_zero (or_and_eq_zero (maskIf_and_eq_zero _ h4) (maskIf_and_eq_zero _ h5))
    (maskIf_and_eq_zero _ h6)) (maskIf_and_eq_zero _ h7)

theorem and_zero_of_and {a b m : Byte} (h : b &&& m = 0) : (a &&& b) &&& m = 0 := by
  rw [BitVec.and_assoc, h]; simp

theorem and_eq_zero_comm {a b : Byte} (h : a &&& b = 0) : b &&& a = 0 := by rw [BitVec.and_comm, h]

/-! ### What frames and polls leave (R64, R65, R66) -/

section
variable {cfg : Config} (h : cfg.wf = true)
include h

theorem flipTable_blue (n : BitVec 4) : flipTable cfg n &&& cfg.pinBlue = 0 := by
  obtain ⟨-, -, -, h4, h5, h6, h7⟩ := wf_disjoint h
  exact flipTable_and_eq_zero h4.2.2.2 h5.2.2 h6.2 h7 n

theorem flipTable_e (n : BitVec 4) : flipTable cfg n &&& cfg.pinE = 0 := by
  obtain ⟨-, -, he, -⟩ := wf_disjoint h
  exact flipTable_and_eq_zero (and_eq_zero_comm he.1) (and_eq_zero_comm he.2.1) (and_eq_zero_comm he.2.2.1)
    (and_eq_zero_comm he.2.2.2.1) n

theorem base_e (blk : Block) (c : Bool) : base cfg blk c &&& cfg.pinE = 0 := by
  obtain ⟨hr, -, he, -⟩ := wf_disjoint h
  exact or_and_eq_zero (and_zero_of_and (and_eq_zero_comm he.2.2.2.2)) (maskIf_and_eq_zero c hr.2.1)

theorem pollLo_e (blk : Block) : pollLo cfg blk &&& cfg.pinE = 0 := by
  obtain ⟨-, hw, he, -⟩ := wf_disjoint h
  exact or_and_eq_zero (and_zero_of_and (and_eq_zero_comm he.2.2.2.2)) hw.1

/-- Frames leave the blue bit. -/
theorem base_flip_blue (blk : Block) (c : Bool) (n : BitVec 4) :
    (base cfg blk c ||| flipTable cfg n) &&& cfg.pinBlue = blk.portb &&& cfg.pinBlue := by
  obtain ⟨hr, -⟩ := wf_disjoint h
  have hf := flipTable_blue h n
  have hm := maskIf_and_eq_zero c hr.2.2.2.2.2.2
  have key : ∀ x y z m : Byte, y &&& m = 0 → z &&& m = 0 → ((x &&& m ||| y) ||| z) &&& m = x &&& m := by
    intro x y z m hy hz
    have : ((x &&& m ||| y) ||| z) &&& m = (x &&& m) ||| (y &&& m) ||| (z &&& m) := by
      ext i hi
      simp
      cases x[i] <;> cases y[i] <;> cases z[i] <;> cases m[i] <;> rfl
    rw [this, hy, hz]
    simp
  exact key _ _ _ _ hm hf

/-- A poll leaves the blue bit. -/
theorem pollLo_blue (blk : Block) : pollLo cfg blk &&& cfg.pinBlue = blk.portb &&& cfg.pinBlue := by
  obtain ⟨-, hw, -⟩ := wf_disjoint h
  have hb := hw.2.2.2.2.2
  have key : ∀ x y m : Byte, y &&& m = 0 → (x &&& m ||| y) &&& m = x &&& m := by
    intro x y m hy
    have : (x &&& m ||| y) &&& m = (x &&& m) ||| (y &&& m) := by
      ext i hi
      simp
      cases x[i] <;> cases y[i] <;> cases m[i] <;> rfl
    rw [this, hy]
    simp
  exact key _ _ _ hb

/-- R65: the base mask depends on the blue bit alone, so it is the same before and after a frame. -/
theorem base_after_frame (blk blk' : Block) (c c' : Bool) (n : BitVec 4)
    (hb : blk'.portb = base cfg blk c ||| flipTable cfg n) : base cfg blk' c' = base cfg blk c' := by
  simp only [base, hb]
  have := base_flip_blue h blk c n
  simp only [base] at this
  rw [this]

theorem frame_last_e (blk : Block) (c : Bool) (n : BitVec 4) :
    (base cfg blk c ||| flipTable cfg n) &&& cfg.pinE = 0 := or_and_eq_zero (base_e h blk c) (flipTable_e h n)

end

/-- R65: the base mask is a function of the blue bit. -/
theorem base_congr {cfg : Config} {blk blk' : Block} (h : blk'.portb &&& cfg.pinBlue = blk.portb &&& cfg.pinBlue)
    (c : Bool) : base cfg blk' c = base cfg blk c := by simp [base, h]

/-! ### DisplayState -/

theorem displayState_idle_iff (cfg : Config) (blk : Block) :
    displayState cfg blk = .idle ↔ blk.ddrb &&& cfg.ddrbD7Dir = 0 := by
  unfold displayState; split <;> simp_all

/-- DisplayState is a view of DDRB. -/
theorem displayState_congr {cfg : Config} {blk blk' : Block} (h : blk'.ddrb = blk.ddrb) :
    displayState cfg blk' = displayState cfg blk := by simp [displayState, h]

theorem displayState_afterPoll (cfg : Config) (blk : Block) : displayState cfg (afterPoll cfg blk) = .idle := by
  rw [displayState_idle_iff]
  simp only [afterPoll]
  ext i hi
  simp

theorem displayState_slow {cfg : Config} (h : cfg.wf = true) (blk : Block) (dd : Byte) :
    displayState cfg { blk with ddrb := dd ||| cfg.ddrbD7Dir } = .commandPolling := by
  have h3 := (wf_checks h).2.2.1
  simp only [Config.directionBitsOk, Bool.and_eq_true] at h3
  have hne : cfg.ddrbD7Dir ≠ 0 := by intro hz; simp [singleBit, hz] at h3
  have : (dd ||| cfg.ddrbD7Dir) &&& cfg.ddrbD7Dir = cfg.ddrbD7Dir := by
    ext i hi
    simp
    cases dd[i] <;> cases cfg.ddrbD7Dir[i] <;> simp
  unfold displayState
  rw [this, if_neg hne]

end Sys2Proof.Machine
end

