-- ==== Sys2Proof/Tests/Slice0.lean ====
section
/-!
SUPPORT. Tests. Expected results are taken from 95_test_vectors.md (the vector is named beside each test) or worked by hand from the rule
named; then a witness for the hypotheses of every obligation that has some (`test_meets_<obligation>`).
-/

namespace Sys2Proof.Tests

open Sys2Proof.Machine

/-! ### Helpers -/

/-- The next state of an outcome. -/
def nextOf (o : Host.Outcome State Fault Refusal) : Option State :=
  match o with
  | .next s => some s
  | .fault _ => none
  | .refused _ => none

/-- S after INIT with other shadows. -/
def blk (pa pb dd : Byte) : Block :=
  { porta := pa, portb := pb, ddrb := dd, ready := true, stale := false, notifier := .armed, prevMask := 0x00 }

/-- A state between operations, with answers given. -/
def st (b : Block) (env : List Answer) : State := { State.created Config.default with block := b, env := env }

/-- 95_test_vectors.md `S_init`. -/
def sInit (env : List Answer) : State := st (blk 0x00 0x00 0x02) env

/-- 95_test_vectors.md `S_idle`. -/
def sIdle (env : List Answer) : State := st (blk 0x00 0x06 0x00) env

/-- `n` answers ok to writes. -/
def oks (n : Nat) : List Answer := List.replicate n (.ok 0x00)

/-- What an operation emits, and PORTB and DDRB after it. -/
def seen (i : Instr) (s : State) : Option (List Tx × Byte × Byte × List OpResult) :=
  (nextOf (exec i s)).map fun t => (t.trace, t.block.portb, t.block.ddrb, t.results)

/-- What an operation emits, and S after it. -/
def left (i : Instr) (s : State) : Option (List Tx × Block) := (nextOf (exec i s)).map fun t => (t.trace, t.block)

/-- The transactions of a poll of one iteration from a state with blue lit. -/
def onePoll : List Tx := [.wr .gpiob [0x40], .w1 0x60, .r0, .wr .gpiob [0x40, 0x60, 0x40], .wr .iodirb [0x00]]

/-! ### Well-formedness: an ill-formed term for each check -/

/-- R78, R86 BlobLen: 65536 bytes have no u16 length, in each of the five blob operands. -/
theorem test_blob_too_long (slot : Byte) :
    Instr.wf (.instrs (List.replicate 65536 0)) = false ∧ Instr.wf (.datas (List.replicate 65536 0)) = false ∧
      Instr.wf (.text (List.replicate 65536 0)) = false ∧ Instr.wf (.textc (List.replicate 65536 0)) = false ∧
      Instr.wf (.createchar slot (List.replicate 65536 0)) = false := by
  simp only [Instr.wf, blobLenOk, List.length_replicate]
  decide

theorem test_blob_longest : Instr.wf (.datas (List.replicate 65535 0)) = true := by
  simp only [Instr.wf, blobLenOk, List.length_replicate]
  decide

/-- R10 (a) to (d), entry 15: a configuration that fails each check is refused under its name. -/
theorem test_config_checks :
    Config.default.firstFailure = none ∧
      { Config.default with pinRS := 0x40 }.firstFailure = some .portbPins ∧
      { Config.default with pinRed := 0x10 }.firstFailure = some .colourPins ∧
      { Config.default with busyMask := 0x03 }.firstFailure = some .directionBits ∧
      { Config.default with batchMax := 30 }.firstFailure = some .batchMax ∧
      { Config.default with initBlock := [0x00] }.firstFailure = some .initBlockLength ∧
      { Config.default with pollLimit := some 0 }.firstFailure = some .pollLimit := by decide

/-! ### Decoding -/

/-- V0-1. -/
theorem test_decode_v0_1 : decodeAll [0x10, 0x20, 0x01, 0x23, 0x00, 0x02, 0x48, 0x69, 0x70] =
    .ok [.init, .instr 0x01, .datas [0x48, 0x69], .sample] := by decide

/-- V0-2 and V0-9. -/
theorem test_decode_reserved : decodeAll [0x90] = .error (.reservedOpcode 0x90 0) ∧
    decodeAll [0x00] = .error (.reservedOpcode 0x00 0) := by decide

/-- V0-3 and V0-7. -/
theorem test_decode_truncated : decodeAll [0x23, 0x00, 0x05, 0x41] = .error (.truncated 4) ∧
    decodeAll [0x40] = .error (.truncated 1) := by decide

/-- V0-5: a pattern of seven bytes decodes (R86). -/
theorem test_decode_pattern : decodeAll [0x50, 0x03, 0x00, 0x07, 0x01, 0x02, 0x03, 0x04, 0x05, 0x06, 0x07] =
    .ok [.createchar 0x03 [0x01, 0x02, 0x03, 0x04, 0x05, 0x06, 0x07]] := by decide

/-- V0-6 and V0-8. -/
theorem test_decode_v0_8 : decodeAll [0x22, 0x00, 0x00] = .ok [.instrs []] ∧
    decodeAll [0x71, 0x03, 0x81, 0x80] = .ok [.name 0x03, .close, .tick] := by decide

/-- P1's encoding: LCDBOOT is its eight INSTRs. -/
theorem test_encode_p1 : [Instr.init, .lcdboot, .backlight 0x06, .textc [0x48, 0x69, 0x0A, 0x59, 0x6F]].flatMap encode =
    [0x10, 0x20, 0x33, 0x20, 0x32, 0x20, 0x28, 0x20, 0x01, 0x20, 0x14, 0x20, 0x06, 0x20, 0x0C, 0x20, 0x02, 0x40, 0x06,
      0x61, 0x00, 0x05, 0x48, 0x69, 0x0A, 0x59, 0x6F] := by decide

/-- The length of a blob is big-endian (R78, D38). -/
theorem test_length_order : encodeLen 258 = [0x01, 0x02] ∧ readBlob 9 [0x00, 0x01, 0x41] = .ok ([0x41], []) ∧
    readBlob 9 [0x01, 0x00, 0x41] = .error (.truncated 9) := by decide

/-- A table word: the opcode byte alone, the operand bytes zero. -/
theorem test_table_words : decodeTableWord 8 0x10 = some .init ∧ decodeTableWord 8 0x20 = some (.instr 0x00) ∧
    decodeTableWord 8 0x22 = some (.instrs []) ∧ decodeTableWord 8 0x50 = some (.createchar 0x00 []) ∧
    decodeTableWord 16 0x0671 = some (.name 0x06) ∧ decodeTableWord 32 0x41010023 = some (.datas [0x41]) ∧
    decodeTableWord 8 0x90 = none := by decide

theorem test_fetch_word : (nextOf (step (State.reset.withFetchWord 8 0x81))).map (fun t => t.block.notifier) =
    some .closed := by decide

/-- R80: a reserved opcode in the stream is refused by name. -/
theorem test_step_reserved : step (State.reset.issue [0x90]) = .refused (.reservedOpcode 0x90 0) := by rfl

/-! ### INIT -/

/-- V40-1. -/
theorem test_init : left .init { State.reset with env := oks 3 } = some
    ([.wr .ioconB1 [0x00],
      .wr .initBase [0x3F, 0x02, 0x3F, 0x00, 0x00, 0x00, 0x00, 0x00, 0x00, 0x00, 0x00, 0x00, 0x3F, 0x00, 0x00, 0x00, 0x00,
        0x00, 0x00, 0x00, 0x00, 0x00],
      .wr .ioconB0 [0xA0]], blk 0x00 0x00 0x02) := by decide

/-- V40-8. -/
theorem test_init_fails : left .init (sIdle [.error]) = some
    ([.wr .ioconB1 [0x00]], { blk 0x00 0x06 0x00 with ready := false, stale := true }) := by decide

/-- R41, R48: the register addresses on the bus. -/
theorem test_addresses : (Tx.wr .ioconB1 [0x00]).onBus Config.default = (0x20, [0x15, 0x00]) ∧
    (Tx.wr .initBase []).payload Config.default = [0x00] ∧ (Tx.wr .ioconB0 [0xA0]).payload Config.default = [0x0A, 0xA0] ∧
    (Tx.rr .gpioa).payload Config.default = [0x09] ∧ (Tx.wr .iodirb [0x02]).payload Config.default = [0x10, 0x02] ∧
    (Tx.wr .gpiob [0x40]).payload Config.default = [0x19, 0x40] ∧ (Tx.w1 0x60).payload Config.default = [0x60] ∧
    Tx.r0.payload Config.default = [] := by decide

/-! ### LCD operations -/

/-- L1-1. -/
theorem test_instr : seen (.instr 0x0C) (sIdle (oks 1)) =
    some ([.wr .gpiob [0x20, 0x00, 0x26, 0x06]], 0x06, 0x00, [.ok .unit]) := by decide

/-- V41-1. -/
theorem test_instr_polls : seen (.instr 0x33) (sInit ([.ok 0, .ok 0, .ok 0x02, .ok 0, .ok 0, .ok 0x00, .ok 0] ++ oks 2)) =
    some ([.wr .gpiob [0x40], .w1 0x60, .r0, .wr .gpiob [0x40, 0x60, 0x40], .w1 0x60, .r0, .wr .gpiob [0x40, 0x60, 0x40],
      .wr .iodirb [0x00], .wr .gpiob [0x38, 0x18, 0x38, 0x18]], 0x18, 0x00, [.ok .unit]) := by decide

/-- V41-4: blue dark is kept. -/
theorem test_data : seen (.data 0x41) (st (blk 0x00 0x01 0x00) (oks 1)) =
    some ([.wr .gpiob [0xA5, 0x85, 0xB1, 0x91]], 0x91, 0x00, [.ok .unit]) := by decide

/-- V41-c1: DATA 01 is not slow. -/
theorem test_data_not_slow : seen (.data 0x01) (sIdle (oks 2)) =
    some ([.wr .gpiob [0xA0, 0x80, 0xB0, 0x90]], 0x90, 0x00, [.ok .unit]) := by decide

/-- R109: INSTRS of a slow byte makes no direction write. -/
theorem test_instrs : seen (.instrs [0x01, 0x0C]) (sIdle (oks 2)) =
    some ([.wr .gpiob [0x20, 0x00, 0x30, 0x10, 0x20, 0x00, 0x26, 0x06]], 0x06, 0x00, [.ok .unit]) := by decide

/-- V41-9: nine bytes are two batches. -/
theorem test_datas : seen (.datas [0x41, 0x42, 0x43, 0x44, 0x45, 0x46, 0x47, 0x48, 0x49]) (sIdle (oks 2)) = some
    ([.wr .gpiob [0xA4, 0x84, 0xB0, 0x90, 0xA4, 0x84, 0xA8, 0x88, 0xA4, 0x84, 0xB8, 0x98, 0xA4, 0x84, 0xA4, 0x84, 0xA4, 0x84,
        0xB4, 0x94, 0xA4, 0x84, 0xAC, 0x8C, 0xA4, 0x84, 0xBC, 0x9C, 0xA4, 0x84, 0xA2, 0x82],
      .wr .gpiob [0xA4, 0x84, 0xB2, 0x92]], 0x92, 0x00, [.ok .unit]) := by decide

/-- V41-15 and V41-e2: a failed direction write leaves D7 an output. -/
theorem test_clear : seen .clear (sIdle (oks 2)) =
      some ([.wr .gpiob [0x20, 0x00, 0x30, 0x10], .wr .iodirb [0x02]], 0x10, 0x02, [.ok .unit]) ∧
    seen .clear (sIdle [.ok 0, .error]) = some ([.wr .gpiob [0x20, 0x00, 0x30, 0x10], .wr .iodirb [0x02]], 0x10, 0x00,
      [.err (.transportError (.wr .iodirb [0x02]) 2)]) := by decide

/-- V41-16. -/
theorem test_home : seen .home (sIdle (oks 2)) =
    some ([.wr .gpiob [0x20, 0x00, 0x28, 0x08], .wr .iodirb [0x02]], 0x08, 0x02, [.ok .unit]) := by decide

/-- L1-7. -/
theorem test_createchar :
    seen (.createchar 0x03 [0x01, 0x02, 0x03, 0x04, 0x05, 0x06, 0x07, 0x08]) (sIdle (oks 4)) = some
    ([.wr .gpiob [0x34, 0x14, 0x22, 0x02],
      .wr .gpiob [0xA0, 0x80, 0xB0, 0x90, 0xA0, 0x80, 0xA8, 0x88, 0xA0, 0x80, 0xB8, 0x98, 0xA0, 0x80, 0xA4, 0x84, 0xA0, 0x80,
        0xB4, 0x94, 0xA0, 0x80, 0xAC, 0x8C, 0xA0, 0x80, 0xBC, 0x9C, 0xA0, 0x80, 0xA2, 0x82],
      .wr .gpiob [0x20, 0x00, 0x30, 0x10], .wr .iodirb [0x02]], 0x10, 0x02, [.ok .unit]) := by decide

/-- V41-20 and V41-22. -/
theorem test_createchar_usage :
    seen (.createchar 0x03 [0x01, 0x02, 0x03, 0x04, 0x05, 0x06, 0x07]) (sIdle []) =
      some ([], 0x06, 0x00, [.err (.protocolUsageError .patternLen 7)]) ∧
    seen (.createchar 0x08 [0, 0, 0, 0, 0, 0, 0, 0])
        { sIdle [] with cfg := { Config.default with slotPolicy := .reject } } =
      some ([], 0x06, 0x00, [.err (.protocolUsageError .slotRange 8)]) := by decide

/-- V41-29. -/
theorem test_text : seen (.text [0x0A, 0x42]) (sIdle (oks 2)) =
    some ([.wr .gpiob [0x26, 0x06, 0x20, 0x00], .wr .gpiob [0xA4, 0x84, 0xA8, 0x88]], 0x88, 0x00, [.ok .unit]) := by decide

/-- V41-28: an empty text polls. -/
theorem test_text_empty : seen (.text []) (sInit (oks 5)) = some (onePoll, 0x40, 0x00, [.ok .unit]) := by decide

/-- V41-26. -/
theorem test_textc : seen (.textc [0x41, 0x0A]) (sIdle (oks 9)) =
    some (.wr .gpiob [0x20, 0x00, 0x30, 0x10] :: .wr .iodirb [0x02] :: onePoll.append
      [.wr .gpiob [0xA4, 0x84, 0xB0, 0x90], .wr .gpiob [0x26, 0x06, 0x20, 0x00]], 0x00, 0x00, [.ok .unit]) := by decide

/-- V41-e4 and V41-e5: a failed read leaves E high in PORTB, a failed strobe-high does not. -/
theorem test_poll_fails :
    left (.instr 0x0C) (sInit [.ok 0, .ok 0, .error]) =
      some ([.wr .gpiob [0x40], .w1 0x60, .r0], { blk 0x00 0x60 0x02 with stale := true }) ∧
    left (.instr 0x0C) (sInit [.ok 0, .error]) =
      some ([.wr .gpiob [0x40], .w1 0x60], { blk 0x00 0x40 0x02 with stale := true }) := by decide

/-- V41-32. -/
theorem test_poll_limit :
    seen (.instr 0x0C) { sInit [.ok 0, .ok 0, .ok 0x02, .ok 0, .ok 0, .ok 0x02, .ok 0] with
        cfg := { Config.default with pollLimit := some 2 } } =
      some ([.wr .gpiob [0x40], .w1 0x60, .r0, .wr .gpiob [0x40, 0x60, 0x40], .w1 0x60, .r0,
        .wr .gpiob [0x40, 0x60, 0x40]], 0x40, 0x02, [.err (.busyTimeout 2)]) := by decide

/-- P1, LCDBOOT's frames up to its second poll. -/
def bootFirst : List Tx :=
  [.wr .gpiob [0x38, 0x18, 0x38, 0x18], .wr .gpiob [0x38, 0x18, 0x28, 0x08], .wr .gpiob [0x28, 0x08, 0x22, 0x02],
    .wr .gpiob [0x20, 0x00, 0x30, 0x10], .wr .iodirb [0x02]]

/-- P1, LCDBOOT's frames after its second poll. -/
def bootSecond : List Tx :=
  [.wr .gpiob [0x30, 0x10, 0x24, 0x04], .wr .gpiob [0x20, 0x00, 0x2C, 0x0C], .wr .gpiob [0x20, 0x00, 0x26, 0x06],
    .wr .gpiob [0x20, 0x00, 0x28, 0x08], .wr .iodirb [0x02]]

/-- P1, the LCDBOOT rows: eight results, two polls. -/
theorem test_lcdboot : seen .lcdboot (sInit (oks 22)) =
    some (onePoll ++ bootFirst ++ onePoll ++ bootSecond, 0x08, 0x02, List.replicate 8 (.ok .unit)) := by decide

/-! ### Backlight, buttons and the notifier -/

/-- V42-2: bits 7..3 of the operand are ignored. -/
theorem test_backlight : left (.backlight 0x0D) (st (blk 0x15 0xA4 0x02) (oks 2)) = some ([.wr .gpioa [0x95], .wr .gpiob [0xA4]], blk 0x95 0xA4 0x02) := by decide

/-- V42-4: the colour is half changed. -/
theorem test_backlight_fails : left (.backlight 0x01) (sInit [.ok 0, .error]) =
    some ([.wr .gpioa [0x80], .wr .gpiob [0x01]], { blk 0x80 0x00 0x02 with stale := true }) := by decide

/-- V42-10 and V42-9. -/
theorem test_sample : seen .sample (sInit [.ok 0xE0]) = some ([.rr .gpioa], 0x00, 0x02, [.ok (.mask 0x00)]) ∧
    seen .sample (sInit [.ok 0xFF]) = some ([.rr .gpioa], 0x00, 0x02, [.ok (.mask 0x1F)]) := by decide

/-- The NAME vectors. -/
theorem test_name : ([0x00, 0x01, 0x02, 0x03, 0x04, 0x08, 0x10, 0x1F, 0x20, 0x80] : List Byte).map buttonName =
    [none, some .select, some .right, none, some .down, some .up, some .left, none, none, none] := by decide

theorem test_name_result : seen (.name 0x10) State.reset = some ([], 0x00, 0x00, [.ok (.name (some .left))]) := by decide

/-- V43-5: two bits change, the number grows, a press. -/
theorem test_tick : (nextOf (exec .tick (st { blk 0x00 0x00 0x02 with prevMask := 0x01 } [.ok 0x02]))).map
    (fun t => (t.trace, t.block.prevMask, t.events)) =
      some ([.rr .gpioa], 0x02, [.ok (.events [.change 0x03, .press 0x03])]) := by decide

/-- V43-d6: 01 < 12, a release, of the bit that went. -/
theorem test_tick_directional :
    (nextOf (exec .tick { st { blk 0x00 0x00 0x02 with prevMask := 0x10 } [.ok 0x01] with
        cfg := { Config.default with eventPayload := .directional } })).map (fun t => t.events) =
      some [.ok (.events [.change 0x11, .release 0x10])] := by decide

/-- V43-13 and V43-14. -/
theorem test_close : (nextOf (exec .close (sInit []))).map (fun t => (t.block.notifier, t.trace)) = some (.closed, []) ∧
    (nextOf (exec .tick (st { blk 0x00 0x00 0x02 with notifier := .closed } []))).map (fun t => (t.trace, t.events)) =
      some ([], [.ok (.events [])]) := by decide

/-! ### Construction -/

/-- V0-10 and V0-11. -/
theorem test_construct :
    badParam { busId := some 1, devAddr := 0x80, interval := 200, params := Config.default } = some .devAddr ∧
      badParam { busId := some 1, devAddr := 0x20, interval := -1, params := Config.default } = some .interval ∧
      badParam { busId := none, devAddr := 0x20, interval := 200, params := Config.default } = some .busId := by decide

/-- R97: construction performs INIT. -/
theorem test_construct_inits :
    (nextOf (construct { busId := some 1, devAddr := 0x20, interval := 0, params := Config.default } (oks 3))).map
      (fun t => (t.block.ready, t.block.notifier, t.trace.length)) = some (true, .unarmed, 3) := by decide

/-! ### Assembler text (R83) -/

theorem test_assemble : assemble "INIT\nBACKLIGHT TEAL ; 6\n\nTEXTC \"Hi\\nYo\"\nCREATECHAR 3, [0x1, 2, 0b11]\nLCDBOOT" =
    some [.init, .backlight 0x06, .textc [0x48, 0x69, 0x0A, 0x59, 0x6F], .createchar 0x03 [0x01, 0x02, 0x03], .lcdboot] := by
  decide

theorem test_assemble_bytes : assembleBytes "DATAS \"!\"\nNAME 0x10" = some [0x23, 0x00, 0x01, 0x21, 0x71, 0x10] := by decide

/-- Entry 17: a literal of more digits; R86 BlobLen: a text whose blob has no u16 length has no operations. -/
theorem test_assemble_literals : byteLiteral "0x001".toList = some 0x01 ∧ byteLiteral "0b11".toList = some 0x03 ∧
    byteLiteral "0x".toList = none ∧ byteLiteral "0x100".toList = none := by decide

theorem test_assemble_too_long : (some (Instr.text (List.replicate 65536 0))).filter Instr.wf = none := by
  simp only [Option.filter, Instr.wf, blobLenOk, List.length_replicate]
  decide

theorem test_assemble_refuses : assemble "INSTR 256" = none ∧ assemble "INSTR" = none ∧ assemble "TEXT \"a" = none := by decide

/-! ### Results of an operation that ends another (R135) -/

theorem test_result_after : OpResult.after 2 (.err (.transportError .r0 3)) = .err (.transportError .r0 5) ∧
    OpResult.after 2 (.err (.busyTimeout 3)) = .err (.busyTimeout 3) := by decide

/-! ### The observers -/

/-- An expander as INIT leaves it, its latches at the given values. -/
def expander (iocon olata olatb iodirb pointer : Byte) : Expander :=
  { iodira := 0x3F, iodirb := iodirb, ipola := 0x3F, ipolb := 0x00, gpintena := 0x00, gpintenb := 0x00, defvala := 0x00,
    defvalb := 0x00, intcona := 0x00, intconb := 0x00, iocon := iocon, gppua := 0x3F, gppub := 0x00, olata := olata,
    olatb := olatb, pointer := pointer }

/-- R60, R61: INSTR 28 and DATA 41 as the controller gets them. -/
theorem test_observer : lcdReceives Config.default (expander 0xA0 0x00 0x00 0x00 0x00)
    [.wr .gpiob [0x28, 0x08, 0x22, 0x02], .wr .gpiob [0xA4, 0x84, 0xB0, 0x90]] =
      [{ rs := false, val := 0x28 }, { rs := true, val := 0x41 }] := by decide

/-- R171: a poll cut at its read leaves E high; the next poll's first write is then a read strobe too, so a poll of one iteration makes three. And
a frame of which two bytes arrived makes one strobe, so the next frame's byte is half received. -/
theorem test_nibble_phase :
    strobes Config.default (expander 0xA0 0x00 0x00 0x02 0x00) [.wr .gpiob [0x40], .w1 0x60] = [] ∧
    strobes Config.default (expander 0xA0 0x00 0x60 0x02 0x00) onePoll = [.read false, .read false, .read false] ∧
    lcdReceives Config.default (expander 0xA0 0x00 0x00 0x00 0x00)
      (Tx.reached 3 (.wr .gpiob [0x28, 0x08, 0x22, 0x02]) ++ [.wr .gpiob [0x20, 0x00, 0x26, 0x06]]) =
      [{ rs := false, val := 0x20 }] := by decide

/-- R77: the two strobes of a status read deliver no byte. -/
theorem test_status_read : lcdReceives Config.default (expander 0xA0 0x00 0x00 0x02 0x00)
    (onePoll ++ [.wr .gpiob [0x28, 0x08, 0x22, 0x02]]) = [{ rs := false, val := 0x28 }] := by decide

/-- R77, I4: a busy status, whatever the pins that carry none of it. -/
theorem test_status_pins : statusPins Config.default 0x80 0x00 = 0x02 ∧ statusPins Config.default 0x80 0xFF = 0xE3 := by decide

/-- R35, R120: after a poll cut with E high, INIT performed again lowers E in port B's latch, one strobe; a BACKLIGHT after it makes none. -/
theorem test_init_lowers_e :
    (strobes Config.default (expander 0xA0 0x00 0x60 0x02 0x19)
      [.wr .ioconB1 [0x00], .wr .initBase Config.default.initBlock, .wr .ioconB0 [0xA0]]).length = 1 ∧
    ((expander 0xA0 0x00 0x60 0x02 0x19).run Config.default
      [.wr .ioconB1 [0x00], .wr .initBase Config.default.initBlock, .wr .ioconB0 [0xA0]]).olatb = 0x00 ∧
    strobes Config.default (expander 0xA0 0x00 0x00 0x02 0x0A) [.wr .gpioa [0x80], .wr .gpiob [0x01]] = [] := by decide

/-- R120: with E left high in latch and shadow alike BACKLIGHT makes no edge either. -/
theorem test_backlight_no_edge : strobes Config.default (expander 0xA0 0x00 0x60 0x02 0x19) [.wr .gpioa [0x80], .wr .gpiob [0x61]] = [] := by
  decide

/-- R171: 0x28 and then 0x0C, read one nibble off. -/
theorem test_one_nibble_off : oneNibbleOff [0x28, 0x0C] = [0x80] ∧ oneNibbleOff [0x28] = [] := by decide

theorem test_lcd_classes : lcdClass 0x33 = some (.functionSet true false false) ∧
    lcdClass 0x28 = some (.functionSet false true false) ∧ lcdClass 0xC0 = some (.setDdram 0x40) ∧
    lcdClass 0x58 = some (.setCgram 0x18) ∧ lcdClass 0x14 = some (.cursorOrShift false true) ∧ lcdClass 0x00 = none := by decide

/-- R46, R47: the maps where INIT and the engine write. -/
theorem test_register_maps : registerAt false 0x15 = some .olatb ∧ registerAt false 0x0A = some .iocon ∧
    registerAt true 0x15 = some .iocon ∧ registerAt true 0x09 = some .gpioa ∧ registerAt true 0x10 = some .iodirb ∧
    registerAt true 0x19 = some .gpiob ∧ registerAt true 0x0B = none := by decide

/-! ### Witnesses: a state and operands that meet the hypotheses of each obligation -/

/-- S after INIT with POLL_LIMIT = 2. -/
def sLimit (env : List Answer) : State := { sInit env with cfg := { Config.default with pollLimit := some 2 } }

/-- A poll list: one busy read, then one that is not. -/
theorem pollEnds_default : PollEnds Config.default [0x02] 0x00 := ⟨by decide, by decide, by decide⟩

theorem readyIdle_sIdle (env : List Answer) : ReadyIdle (sIdle env) :=
  ⟨rfl, rfl, show displayState Config.default (blk 0x00 0x06 0x00) = .idle by decide⟩

theorem readyPolling_sInit (env : List Answer) : ReadyPolling (sInit env) :=
  ⟨rfl, rfl, show displayState Config.default (blk 0x00 0x00 0x02) = .commandPolling by decide⟩

theorem readyPolling_sLimit (env : List Answer) : ReadyPolling (sLimit env) :=
  ⟨rfl, rfl, show displayState Config.default (blk 0x00 0x00 0x02) = .commandPolling by decide⟩

theorem test_meets_OperationRoundTrip : (Instr.createchar 0xFF []).wf = true ∧ (Instr.createchar 0xFF []).isCore = true := by
  decide

theorem test_meets_ProgramRoundTrip : ∀ i ∈ [Instr.init, .lcdboot, .datas [0x41]], i.wf = true := by decide

theorem test_meets_DecodedBytesAreTheEncoding : decodeOne 5 [0x23, 0x00, 0x00, 0x70] = .ok (.datas [], [0x70]) := by decide

theorem test_meets_ReservedOpcodesRefused :
    (0x82 : Byte) ∉ ([0x10, 0x20, 0x21, 0x22, 0x23, 0x30, 0x31, 0x40, 0x50, 0x60, 0x61, 0x70, 0x71, 0x80, 0x81] : List Byte) ∧
      (State.reset.issue [0x82]).seq = .between ∧ (State.reset.issue [0x82]).queued = [] ∧
      (State.reset.issue [0x82]).input = 0x82 :: [] := by decide

theorem test_meets_CutOperationsTruncated :
    (Instr.createchar 0x01 [0x01]).wf = true ∧ (Instr.createchar 0x01 [0x01]).isCore = true ∧
      4 < (encode (.createchar 0x01 [0x01])).length := by decide

theorem test_meets_StepRunsTheDecodedOperation :
    (State.reset.issue [0x71, 0x01, 0x81]).seq = .between ∧ (State.reset.issue [0x71, 0x01, 0x81]).queued = [] ∧
      (State.reset.issue [0x71, 0x01, 0x81]).input ≠ [] ∧
      decodeOne (State.reset.issue [0x71, 0x01, 0x81]).offset (State.reset.issue [0x71, 0x01, 0x81]).input =
        .ok (.name 0x01, [0x81]) := by decide

/-- A state in which the first of two batches of an INSTRS awaits its answer. -/
def sFrame : State :=
  { sIdle [] with
    seq := .running { port := .host, act := .sendFrames [0x20, 0x00, 0x26, 0x06], acts := [.sendFrames [0x24, 0x04, 0x20, 0x00]],
                      lines := [], emitted := 1 } }

theorem test_meets_StepWaitsOrGoesOn :
    ({ State.reset with queued := [.home] }.seq = .between ∧ { State.reset with queued := [.home] }.queued = .home :: []) ∧
      (State.reset.seq = .between ∧ State.reset.queued = [] ∧ State.reset.input = []) ∧
      (∃ r, sFrame.seq = .running r ∧ sFrame.env = [] ∧
        (sFrame.giveAnswers [.error]).seq = .running r ∧ (sFrame.giveAnswers [.error]).env = .error :: []) ∧
      ∃ u r, (sIdle []).seq = .between ∧ exec .clear (sIdle []) = .next u ∧ u.seq = .running r :=
  ⟨by decide, by decide, ⟨_, rfl, rfl, rfl, rfl⟩, _, _, rfl, rfl, rfl⟩

theorem test_meets_NotInitializedBeforeInit :
    State.reset.seq = .between ∧ State.reset.block.ready = false ∧ Instr.needsReady .sample = true ∧
      State.reset.block.notifier ≠ .armed ∧ (∃ t, exec .close State.reset = .next t) ∧
      { Block.reset with notifier := .armed }.notifier = .armed ∧ { Block.reset with notifier := .armed }.ready = false :=
  ⟨by decide, by decide, by decide, by decide, ⟨_, rfl⟩, by decide, by decide⟩

theorem test_meets_ValuesBeforeInitNeverShow :
    State.reset.seq = .between ∧ State.reset.block.ready = false ∧
      ∃ t, exec .init { State.reset with env := oks 3 } = .next t ∧ t.block.ready = true :=
  ⟨by decide, by decide, _, rfl, by decide⟩

theorem test_meets_InitCompletes :
    (sIdle (oks 3 ++ [.error])).seq = .between ∧ (sIdle (oks 3 ++ [.error])).env = oks 3 ++ [.error] ∧
      (oks 3).length = 3 ∧ allOk (oks 3) = true := by decide

theorem test_meets_FailedInit : ∀ k : Fin 3, (sIdle (oks k ++ .error :: oks 1)).seq = .between ∧
    (sIdle (oks k ++ .error :: oks 1)).env = oks k ++ .error :: oks 1 ∧ (oks k).length = k ∧ allOk (oks k) = true := by decide

/-- Constructor arguments with the device address at the edge of R141's check. -/
def ctor (busId : Option Int) (devAddr : Nat) (interval : Int) : CtorArgs :=
  { busId := busId, devAddr := devAddr, interval := interval, params := Config.default }

theorem test_meets_ConfigurationErrors :
    (ctor none 0x20 200).busId = none ∧ ((ctor (some 1) 128 0).busId ≠ none ∧ 128 ≤ (ctor (some 1) 128 0).devAddr) ∧
      ((ctor (some 1) 127 (-1)).devAddr < 128 ∧ (ctor (some 1) 127 (-1)).interval < 0) ∧
      ((ctor (some 1) 127 0).devAddr < 128 ∧ 0 ≤ (ctor (some 1) 127 0).interval ∧
        (ctor (some 1) 127 0).config.wf = true) ∧
      { ctor (some 1) 127 0 with params := { Config.default with batchMax := 2 } }.config.wf = false := by decide

theorem test_meets_InitConfiguresTheExpander :
    (expander 0x00 0x00 0x00 0xFF 0x00).iocon = 0x00 ∧ (expander 0xA0 0x12 0x34 0x02 0x19).iocon = 0xA0 := by decide

/-- Well-formed configurations: the default one, and one with other pins and batches of one frame. -/
def otherPins : Config :=
  { Config.default with
    pinRS := 0x01, pinRW := 0x02, pinE := 0x04, pinD4 := 0x80, pinD5 := 0x40, pinD6 := 0x10, pinD7 := 0x20, pinBlue := 0x08
    ddrbD7Dir := 0x20, busyMask := 0x20, batchMax := 4, ddrbInit := 0x20, slotPolicy := .reject, pollLimit := some 1 }

/-- The expander with every line an output and with D7 an input; port B with E low, and with E high as a poll cut at its read leaves it. For
BacklightWrites too. -/
theorem test_meets_ControllerReceivesTheSequence : (∀ olatb iodirb, Mapped Config.default (expander 0xA0 0x00 olatb iodirb 0x19)) ∧
    (expander 0xA0 0x00 0x40 0x00 0x19).iodirb = 0 ∧ (expander 0xA0 0x00 0x60 0x02 0x19).iodirb &&& ~~~Config.default.pinD7 = 0 ∧
    ddrbOk Config.default 0x02 ∧ anyBit 0x40 Config.default.pinE = false ∧ anyBit 0x60 Config.default.pinE = true ∧
    (expander 0xA0 0x00 0x00 0x02 0x19).olatb = (sInit []).block.portb :=
  ⟨fun _ _ => ⟨show ioconBank 0xA0 = true by decide, show ioconSeqop 0xA0 = true by decide, by decide, by decide, by decide⟩, by decide, by decide, by unfold ddrbOk; decide, by decide, by decide, rfl⟩

/-- For RemapTable, ControllerReceivesTheSequence, BatchesCutTheFrames and TransactionsAreWellFormed. -/
theorem test_meets_wf : Config.default.wf = true ∧ otherPins.wf = true ∧ Config.default.batchMax = 32 ∧
    Config.default.sane = true ∧ otherPins.sane = true := by decide

theorem test_meets_CgramCommand : Config.default.cmdSetCgram = 0x40 ∧ Config.default.slotPolicy = .mask ∧
    otherPins.cmdSetCgram = 0x40 ∧ otherPins.slotPolicy = .reject ∧ (0x07 : Byte) ≤ 7 := by decide

theorem test_meets_OneByteFromIdle : ReadyIdle (sIdle (oks 2)) ∧ (0x03 : Byte) ≠ Config.default.cmdClear ∧
    (0x03 : Byte) ≠ Config.default.cmdHome ∧ (0x02 : Byte) = Config.default.cmdHome ∧
    (sIdle (oks 2)).env = .ok 0x00 :: .ok 0x00 :: [] ∧ ReadyIdle (sIdle [.ok 0x00, .error]) ∧
    (sIdle [.ok 0x00, .error]).env = .ok 0x00 :: .error :: [] ∧ ReadyIdle (sIdle [.error]) ∧ (sIdle [.error]).env = .error :: [] :=
  ⟨readyIdle_sIdle _, by decide, by decide, rfl, rfl, readyIdle_sIdle _, rfl, readyIdle_sIdle _, rfl⟩

/-- Sequences of no byte, of one batch to the full, and of one byte more. -/
theorem test_meets_SequenceFromIdle : ReadyIdle (sIdle (oks 2)) ∧
    (batches Config.default 0x00 []).length = 0 ∧ (batches Config.default 0x00 (List.replicate 8 0x41)).length = 1 ∧
    (oks 2).length = (batches (sIdle (oks 2)).cfg (base (sIdle (oks 2)).cfg (sIdle (oks 2)).block true)
      (List.replicate 9 0x41)).length ∧ allOk (oks 2) = true := ⟨readyIdle_sIdle _, by decide⟩

theorem test_meets_SequenceFailsAtABatch : ReadyIdle (sIdle (oks 1 ++ .error :: [])) ∧
    (batches Config.default (base Config.default (sIdle []).block false) (List.replicate 9 0x41))[1]? =
      some [0x24, 0x04, 0x30, 0x10] := ⟨readyIdle_sIdle _, by decide⟩

theorem test_meets_ClearAndHome : ReadyIdle (sIdle (oks 2)) ∧ (sIdle (oks 2)).env = .ok 0x00 :: .ok 0x00 :: [] :=
  ⟨readyIdle_sIdle _, by decide⟩

/-- Under `mask` any slot, under `reject` the last one let through. -/
theorem test_meets_CreatecharFromIdle : ReadyIdle (sIdle (oks 4)) ∧ Config.default.wf = true ∧
    isSlow Config.default (cgramCmd Config.default 0xFF) = false ∧ isSlow otherPins (cgramCmd otherPins 0x07) = false ∧
    isSlow Config.default Config.default.cmdCgramExit = true ∧ allOk (oks 4) = true ∧
    (oks 4).length = (batches Config.default (base Config.default (sIdle []).block true) (List.replicate 8 0x1F)).length + 3 :=
  ⟨readyIdle_sIdle _, by decide⟩

theorem test_meets_CreatecharUsageErrors : (sIdle []).seq = .between ∧ (sIdle []).block.ready = true ∧
    ([] : List Byte).length ≠ 8 ∧ otherPins.slotPolicy = .reject ∧ 7 < (0x08 : Byte).toNat := by decide

theorem test_meets_TextFromIdle : ReadyIdle (sIdle (oks 3)) ∧ Config.default.wf = true ∧
    isSlow Config.default Config.default.cmdLine2 = false ∧ splitLines 0x0A [0x41] = [[0x41]] ∧
    splitLines 0x0A [0x41, 0x0A, 0x42, 0x0A] = [0x41] :: [0x42] :: [[]] ∧
    (oks 3).length = (batches Config.default 0x80 [0x41]).length + 1 + (batches Config.default 0x80 [0x42]).length :=
  ⟨readyIdle_sIdle _, by decide⟩

theorem test_meets_TextcFromIdle : ∃ env, ReadyIdle (sIdle env) ∧ PollEnds (sIdle env).cfg [0x02] 0x00 ∧
    (sIdle env).env = .ok 0x00 :: .ok 0x00 :: (pollAnswers 0x00 ([0x02] ++ [0x00]) ++ .ok 0x00 :: (oks 1 ++ [])) :=
  ⟨_, readyIdle_sIdle _, pollEnds_default, rfl⟩

theorem test_meets_LcdbootAfterInit : ∃ env, ReadyPolling (sInit env) ∧ (sInit env).cfg.cmdClear = 0x01 ∧
    (sInit env).cfg.cmdHome = 0x02 ∧ PollEnds (sInit env).cfg [0x02] 0x00 ∧ PollEnds (sInit env).cfg [] 0x7D ∧
    (sInit env).env = pollAnswers 0x00 ([0x02] ++ [0x00]) ++ List.replicate 6 (.ok 0x00) ++
      (pollAnswers 0x00 ([] ++ [0x7D]) ++ List.replicate 6 (.ok 0x00) ++ []) :=
  ⟨_, readyPolling_sInit _, rfl, rfl, pollEnds_default, ⟨by decide, by decide, by decide⟩, rfl⟩

/-- The states from `s` on as INSTRs are performed in turn. -/
def chain (s : State) (k : Nat) : State :=
  (lcdbootBytes.take k).foldl (fun t b => (nextOf (exec (.instr b) t)).getD t) s

/-- From D7 an output, with the third of the eight failing: the chain of the other clause; and one that waits, and one before INIT. -/
theorem test_meets_LcdbootExpands :
    (chain (sIdle (oks 2 ++ .error :: oks 14)) 0 = sIdle (oks 2 ++ .error :: oks 14) ∧
      ∀ k : Fin 8, ∃ b, lcdbootBytes[k.val]? = some b ∧
        nextOf (exec (.instr b) (chain (sIdle (oks 2 ++ .error :: oks 14)) k)) =
          some (chain (sIdle (oks 2 ++ .error :: oks 14)) (k + 1)) ∧
        (chain (sIdle (oks 2 ++ .error :: oks 14)) (k + 1)).seq = .between) ∧
    (∃ t r, exec .lcdboot (sIdle []) = .next t ∧ t.seq = .running r) ∧
    (State.reset.seq = .between ∧ State.reset.block.ready = false) :=
  ⟨⟨rfl, fun k => ⟨lcdbootBytes[k.val], by revert k; decide⟩⟩, ⟨_, _, rfl, rfl⟩, by decide⟩

theorem test_meets_PollThenOneByte : ∃ env, ReadyPolling (sInit env) ∧ isSlow (sInit env).cfg 0x03 = false ∧
    PollEnds (sInit env).cfg [0x02] 0x00 ∧
    (sInit env).env = pollAnswers 0x00 ([0x02] ++ [0x00]) ++ .ok 0x00 :: .ok 0x00 :: [] :=
  ⟨_, readyPolling_sInit _, by decide, pollEnds_default, rfl⟩

theorem test_meets_PollThenSequence : ∃ env, ReadyPolling (sInit env) ∧ PollEnds (sInit env).cfg [0x02] 0x00 ∧
    (sInit env).env = pollAnswers 0x00 ([0x02] ++ [0x00]) ++ .ok 0x00 :: (oks 1 ++ []) ∧ allOk (oks 1) = true ∧
    (oks 1).length = (batches (sInit env).cfg
      (base (sInit env).cfg (afterPoll (sInit env).cfg (sInit env).block) true) [0x41]).length :=
  ⟨_, readyPolling_sInit _, pollEnds_default, rfl, by decide, by decide⟩

theorem test_meets_PollThenOperation : ∃ env t u, ReadyPolling (sInit env) ∧ PollEnds (sInit env).cfg [0x02] 0x00 ∧
    (sInit env).env = pollAnswers 0x00 ([0x02] ++ [0x00]) ++ .ok 0x00 :: [.error] ∧ exec .clear (sInit env) = .next t ∧
    exec .clear { sInit env with
      block := afterPoll (sInit env).cfg (sInit env).block, env := [.error]
      trace := (sInit env).trace ++ wholePoll (sInit env).cfg (sInit env).block 2 } = .next u :=
  ⟨_, _, _, readyPolling_sInit _, pollEnds_default, rfl, rfl, rfl⟩

theorem test_meets_BusyTimeoutAtTheLimit : ∃ env, ReadyPolling (sLimit env) ∧ (sLimit env).cfg.pollLimit = some 2 ∧
    (∀ x ∈ ([0x02, 0xFF] : List Byte), busyFlag (sLimit env).cfg x = true) ∧
    (sLimit env).env = pollAnswers 0x00 [0x02, 0xFF] ++ [] ∧ Instr.isLcd (.createchar 0xFF (List.replicate 8 0)) = true ∧
    (List.replicate 8 (0 : Byte)).length = 8 ∧ (sLimit env).cfg.slotPolicy = .mask :=
  ⟨_, readyPolling_sLimit _, rfl, by decide, rfl, rfl, rfl, rfl⟩

theorem test_meets_BusyPollNeedNotEnd : ∃ env t, ReadyPolling (sInit env) ∧ (sInit env).cfg.pollLimit = none ∧
    (∀ x ∈ ([0x02] : List Byte), busyFlag (sInit env).cfg x = true) ∧ (sInit env).env = pollAnswers 0x00 [0x02] ∧
    Instr.isLcd (.textc []) = true ∧ exec (.textc []) (sInit env) = .next t :=
  ⟨_, _, readyPolling_sInit _, rfl, by decide, rfl, rfl, rfl⟩

/-- A poll under POLL_LIMIT = 2 with one busy read and then one that is not: its first transaction fails, its last strobe-rest, and its direction
write; and a poll of one iteration whose only read is busy. -/
theorem test_meets_FailedPollKeepsPolling : Instr.isLcd (.textc []) = true ∧
    (∀ x ∈ ([0x02] : List Byte), busyFlag (sLimit []).cfg x = true) ∧ pollExpired (sLimit []).cfg 1 = false ∧
    pollExpired (sLimit []).cfg 0 = false ∧ busyFlag (sLimit []).cfg 0x00 = false ∧ busyFlag (sLimit []).cfg 0xFF = true ∧
    (pollTxs 0x40 0x60 2)[0]? = some (.wr .gpiob [0x40]) ∧
    (pollTxs 0x40 0x60 2)[6]? = some (.wr .gpiob [0x40, 0x60, 0x40]) ∧
    (∃ env, ReadyPolling (sLimit env) ∧ (sLimit env).env = (pollAnswers 0x00 ([0x02] ++ [0x00])).take 6 ++ .error :: []) ∧
    ∃ env, ReadyPolling (sLimit env) ∧ (sLimit env).env = pollAnswers 0x00 ([0x02] ++ [0x00]) ++ .error :: [] :=
  ⟨rfl, by decide, by decide, by decide, by decide, by decide, by decide, by decide, ⟨_, readyPolling_sLimit _, rfl⟩,
    _, readyPolling_sLimit _, rfl⟩

theorem test_meets_BacklightWrites : (sInit (oks 2)).seq = .between ∧ (sInit (oks 2)).block.ready = true ∧
    (sInit (oks 2)).env = .ok 0x00 :: .ok 0x00 :: [] ∧ (sInit [.ok 0x00, .error]).env = .ok 0x00 :: .error :: [] ∧
    (sInit [.error]).env = .error :: [] := by decide

theorem test_meets_ColourRoundTrip : (0x07 : Byte) ≤ 7 ∧ ∃ t, exec (.backlight 0x07) (sInit (oks 2)) = .next t ∧
    t.results = (sInit (oks 2)).results ++ [.ok .unit] := ⟨by decide, _, rfl, by decide⟩

theorem test_meets_SampleCompletes : (sInit [.ok 0xFF]).seq = .between ∧ (sInit [.ok 0xFF]).block.ready = true ∧
    (sInit [.ok 0xFF]).env = .ok 0xFF :: [] ∧ (sInit [.error]).env = .error :: [] := by decide

/-- For NameCompletes, TickWhileNotArmed and CloseCompletes. -/
theorem test_meets_NameCompletes : State.reset.seq = .between ∧ State.reset.block.notifier ≠ .armed := by decide

/-- An unchanged mask, a smaller one, a greater one, and a failed read. -/
theorem test_meets_TickWhileArmed :
    (sInit [.ok 0xE0]).seq = .between ∧ (sInit [.ok 0xE0]).block.ready = true ∧ (sInit [.ok 0xE0]).block.notifier = .armed ∧
      (0xE0 : Byte) &&& Config.default.buttonMask = (sInit [.ok 0xE0]).block.prevMask ∧
      (0x01 : Byte) &&& Config.default.buttonMask ≠ (sInit [.ok 0x01]).block.prevMask ∧
      (0x01 : Byte) &&& Config.default.buttonMask < (0x10 : Byte) ∧ (sInit [.error]).env = .error :: [] := by decide

theorem test_meets_EventPayloads : Config.default.eventPayload = .delta ∧
    { Config.default with eventPayload := .directional }.eventPayload = .directional ∧ (0x00 : Byte) < 0x01 ∧
    singleBit (0x00 ^^^ 0x01) = true := by decide

theorem test_meets_ClosedIsFinal : ∃ t, { Block.reset with notifier := .closed }.notifier = .closed ∧
    step { State.reset with block := { Block.reset with notifier := .closed }, input := [0x10], env := oks 3 } = .next t :=
  ⟨_, rfl, rfl⟩

/-- A CLEAR that awaits its frame's answer. -/
theorem test_meets_TransportErrorIsPrecise : ∃ t r, exec .clear (sIdle []) = .next t ∧ t.seq = .running r := ⟨_, _, rfl, rfl⟩

/-- For LcdOperationsFrame, TransportErrorIsPrecise (an INSTR whose frame fails) and TransactionsAreWellFormed. -/
theorem test_meets_LcdOperationsFrame : Instr.isLcd (.instr 0x01) = true ∧ Config.default.wf = true ∧ (sIdle [.error]).seq = .between ∧
    ∃ t, exec (.instr 0x01) (sIdle [.error]) = .next t ∧
      t.results = (sIdle [.error]).results ++ [.err (.transportError (.wr .gpiob [0x20, 0x00, 0x30, 0x10]) 1)] :=
  ⟨rfl, by decide, rfl, _, rfl, by decide⟩

theorem test_meets_OtherOperationsFrame : Instr.isLcd .tick = false ∧ Instr.tick ≠ .init ∧ Instr.tick ≠ .lcdboot ∧
    (∃ t, exec .tick (sInit [.ok 0x01]) = .next t) ∧ ∃ t, exec .close { sInit [] with block := { (sInit []).block with stale := true } } =
      .next t ∧ t.block.stale = true := ⟨rfl, by decide, by decide, ⟨_, rfl⟩, _, rfl, rfl⟩

/-- An INIT from Unarmed, with INTERVAL > 0, that fails; and an LCDBOOT that fails and then waits. -/
theorem test_meets_InitAndLcdbootFrame : ∃ t u, exec .init { State.reset with env := [.error] } = .next t ∧
    State.reset.block.notifier = .unarmed ∧ 0 < State.reset.cfg.interval ∧ t.block.ready = false ∧
    exec .lcdboot (sInit [.error]) = .next u ∧ u.block.stale = true := ⟨_, _, rfl, by decide, by decide, by decide, rfl, by decide⟩

theorem test_meets_SingletonSequences : isSlow Config.default 0x03 = false ∧
    (∃ t u, exec (.data 0x01) (sIdle [.error]) = .next t ∧ exec (.datas [0x01]) (sIdle [.error]) = .next u) ∧
    ∃ t u, exec (.instr 0x03) (sIdle (oks 1)) = .next t ∧ exec (.instrs [0x03]) (sIdle (oks 1)) = .next u :=
  ⟨by decide, ⟨_, _, rfl, rfl⟩, _, _, rfl, rfl⟩

/-- A CLEAR that fails and one that waits; after one that succeeds, a TEXT that succeeds, one that fails, and one that waits. -/
theorem test_meets_TextcIsClearThenText :
    (∃ u e, exec .clear (sIdle [.error]) = .next u ∧ u.seq = .between ∧ u.results = (sIdle []).results ++ [.err e]) ∧
    (∃ u r, exec .clear (sIdle []) = .next u ∧ u.seq = .running r) ∧
    (∃ u v, exec .clear (sIdle (oks 8)) = .next u ∧ u.seq = .between ∧ u.results = (sIdle []).results ++ [.ok .unit] ∧
      exec (.text [0x41]) u = .next v ∧ v.seq = .between ∧ v.results = u.results ++ [.ok .unit]) ∧
    (∃ u v e, exec .clear (sIdle (oks 2 ++ [.error])) = .next u ∧ u.seq = .between ∧
      exec (.text [0x41]) u = .next v ∧ v.seq = .between ∧ v.results = u.results ++ [.err e]) ∧
    ∃ u v r, exec .clear (sIdle (oks 2)) = .next u ∧ u.seq = .between ∧ exec (.text [0x41]) u = .next v ∧ v.seq = .running r :=
  ⟨⟨_, .transportError (.wr .gpiob [0x20, 0x00, 0x30, 0x10]) 1, rfl, by decide, by decide⟩, ⟨_, _, rfl, rfl⟩,
    ⟨_, _, rfl, by decide, by decide, rfl, by decide, by decide⟩,
    ⟨_, _, .transportError (.wr .gpiob [0x40]) 1, rfl, by decide, rfl, by decide, by decide⟩,
    _, _, _, rfl, by decide, rfl, rfl⟩

/-- A state inside an operation meets the invariant, its frame awaits an answer, and its step is a next state. -/
theorem test_meets_StepKeepsInvariant : Inv sFrame ∧ ∃ t, step sFrame = .next t := by
  refine ⟨⟨by decide, ?_, by decide, by decide, .inl ⟨rfl, ?_, by decide, by decide, by decide, .inr (.inl ?_)⟩⟩, _, rfl⟩
  · intro _; exact ⟨by unfold portaOk; decide, by unfold ddrbOk; decide⟩
  · intro a ha
    have h : a = .sendFrames [0x20, 0x00, 0x26, 0x06] ∨ a = .sendFrames [0x24, 0x04, 0x20, 0x00] := by simpa [sFrame] using ha
    rcases h with rfl | rfl <;> exact ⟨by decide, by unfold eLow; decide, by decide⟩
  · unfold eLow; decide

theorem test_meets_FramesOnlyWhileD7IsOutput :
    ∃ r r' bs, sFrame.seq = .running r ∧ (answer (.ok 0x00) r sFrame).seq = .running r' ∧ r'.act = .sendFrames bs :=
  ⟨_, _, _, rfl, rfl, rfl⟩

theorem test_meets_ShadowsFollowTheExpander : ShadowsAgree (sInit []).block (expander 0xA0 0x00 0x00 0x02 0x0B) ∧
    ∃ t, exec .clear (sInit (oks 7)) = .next t ∧ t.seq = .between ∧ t.block.stale = false :=
  ⟨⟨rfl, rfl, rfl, rfl, rfl⟩, _, rfl, by decide, by decide⟩

/-- For OutputsOnlyGrow and StaleIsAGhost. -/
theorem test_meets_OutputsOnlyGrow : ∃ t u, step (State.reset.issue [0x81]) = .next t ∧ exec .home (sInit []) = .next u :=
  ⟨_, _, rfl, rfl⟩

end Sys2Proof.Tests
end

namespace Sys2Proof.Machine

/-! ### Two runs side by side

A claim about an operation is made once for each line and each answered bus step (`Simulates`, `Keeps`); that it then holds of every operation,
suspended or ended, is proved here once, by induction on the lines and on the answers. -/

/-- The transaction whose answer is awaited when these bus steps are to come: that of the first. -/
def awaited : List Act → List Tx
  | [] => []
  | a :: _ => [a.tx]

@[simp] theorem awaited_nil : awaited [] = [] := rfl
@[simp] theorem awaited_cons (a : Act) (as : List Act) : awaited (a :: as) = [a.tx] := rfl

/-- What is claimed of two blocks while an operation goes on: of the blocks, the trace, the bus steps to come (the transaction of the first
is in the trace already) and the lines after them. -/
abbrev RunClaim := Block → Block → List Tx → List Act → List Line → Prop

/-- What is claimed of two blocks and the trace between operations. -/
abbrev EndClaim := Block → Block → List Tx → Prop

/-- Two bodies go on in the same way, with related blocks. -/
inductive Cont.Related (G : Block → Block → List Act → Prop) (F : Block → Block → Prop) : Cont → Cont → Prop
  | go {b b' : Block} {acts : List Act} : G b b' acts → Related G F (.go b acts) (.go b' acts)
  | raise {b b' : Block} {e : OpError} : F b b' → Related G F (.raise b e) (.raise b' e)
  | done {b b' : Block} {v : Value} : F b b' → Related G F (.done b v) (.done b' v)

/-- Every line and every answered bus step takes blocks that meet `R` to blocks that meet it again, or ends both operations in `F`. -/
structure Simulates (cfg : Config) (R : RunClaim) (F : EndClaim) : Prop where
  line : ∀ {b b' tr l ls}, R b b' tr [] (l :: ls) →
    Cont.Related (fun c c' acts => R c c' (tr ++ awaited acts) acts ls) (fun c c' => F c c' tr)
      (l.perform cfg b) (l.perform cfg b')
  stop : ∀ {b b' tr}, R b b' tr [] [] → F b b' tr
  act : ∀ {b b' tr a as ls} (d : Byte), R b b' tr (a :: as) ls →
    Cont.Related (fun c c' acts => R c c' (tr ++ awaited (acts ++ as)) (acts ++ as) ls) (fun c c' => F c c' tr)
      (a.onOk cfg b d) (a.onOk cfg b' d)
  error : ∀ {b b' tr a as ls}, R b b' tr (a :: as) ls → F { b with stale := true } { b' with stale := true } tr

/-- The claim of a state whose block is `s.block` in one run and `b'` in the other. -/
def claimAt (R : RunClaim) (F : EndClaim) (s : State) (b' : Block) : Prop :=
  match s.seq with
  | .between => F s.block b' s.trace
  | .running r => R s.block b' s.trace (r.act :: r.acts) r.lines

/-- Two states that differ in the block alone and meet the claim. -/
def Paired (R : RunClaim) (F : EndClaim) (s s' : State) : Prop := ∃ b', s' = { s with block := b' } ∧ claimAt R F s b'

section
variable {R : RunClaim} {F : EndClaim}

theorem claimAt_between {s : State} {b' : Block} (hq : s.seq = .between) : claimAt R F s b' ↔ F s.block b' s.trace := by
  simp [claimAt, hq]

theorem claimAt_running {s : State} {r : Running} {b' : Block} (hq : s.seq = .running r) :
    claimAt R F s b' ↔ R s.block b' s.trace (r.act :: r.acts) r.lines := by
  simp [claimAt, hq]

/-- A claim that holds at every point of an operation holds wherever it stands. -/
theorem claimAt.everywhere {s : State} {b' : Block} (h : claimAt R F s b')
    (hRF : ∀ {b b' tr acts ls}, R b b' tr acts ls → F b b' tr) : F s.block b' s.trace := by
  unfold claimAt at h
  split at h
  · exact h
  · exact hRF h

theorem Paired.seq_eq {s s' : State} (h : Paired R F s s') : s'.seq = s.seq := by
  obtain ⟨b', rfl, -⟩ := h; rfl

/-- The claim does not look at the answers. -/
theorem Paired.setEnv {s s' : State} (h : Paired R F s s') (e : List Answer) :
    Paired R F { s with env := e } { s' with env := e } := by
  obtain ⟨b', rfl, hc⟩ := h
  exact ⟨b', rfl, hc⟩

theorem complete_paired (p : Port) (r : OpResult) {s : State} {b b' : Block} (h : F b b' s.trace) :
    Paired R F (complete p r { s with block := b }) (complete p r { s with block := b' }) := by
  cases p <;> exact ⟨b', rfl, h⟩

namespace Simulates
variable {cfg : Config} (h : Simulates cfg R F)
include h

theorem proceed (p : Port) : ∀ (ls : List Line) (n : Nat) (acts : List Act) (s : State) (b b' : Block), s.cfg = cfg →
    R b b' (s.trace ++ awaited acts) acts ls →
    Paired R F (proceed p n acts ls { s with block := b }) (Machine.proceed p n acts ls { s with block := b' }) := by
  intro ls
  induction ls with
  | nil =>
    intro n acts s b b' _ hR
    cases acts with
    | nil => exact complete_paired p _ (h.stop (by simpa using hR))
    | cons a as => exact ⟨b', rfl, hR⟩
  | cons l ls ih =>
    intro n acts s b b' hcfg hR
    cases acts with
    | cons a as => exact ⟨b', rfl, hR⟩
    | nil =>
      subst hcfg
      have hl := h.line (by simpa using hR)
      rw [proceed_line, proceed_line]
      simp only
      generalize l.perform s.cfg b = c, l.perform s.cfg b' = c' at hl ⊢
      cases hl with
      | go hG => exact ih n _ s _ _ rfl hG
      | raise hF => exact complete_paired p _ hF
      | done hF => exact complete_paired p _ hF

theorem answer (a : Answer) {r : Running} {s s' : State} (hcfg : s.cfg = cfg) (hq : s.seq = .running r)
    (hs : Paired R F s s') : Paired R F (answer a r s) (Machine.answer a r s') := by
  obtain ⟨b', rfl, hc⟩ := hs
  rw [claimAt_running hq] at hc
  cases a with
  | error => exact complete_paired r.port _ (h.error hc)
  | ok d =>
    subst hcfg
    have ha := h.act d hc
    simp only [Machine.answer]
    generalize r.act.onOk s.cfg s.block d = c, r.act.onOk s.cfg b' d = c' at ha ⊢
    cases ha with
    | go hG => exact h.proceed r.port r.lines _ _ s _ _ rfl hG
    | raise hF => exact complete_paired r.port _ hF
    | done hF => exact complete_paired r.port _ hF

theorem drain : ∀ (as : List Answer) (s s' : State), s.cfg = cfg → Paired R F s s' →
    Paired R F (drain as s) (Machine.drain as s') := by
  intro as
  induction as with
  | nil => exact fun _ _ _ hs => hs
  | cons a as ih =>
    intro s s' hcfg hs
    cases hq : s.seq with
    | between =>
      have hq' := hs.seq_eq.trans hq
      simpa [Machine.drain, hq, hq'] using hs.setEnv (a :: as)
    | running r =>
      rw [drain_running hq, drain_running (hs.seq_eq.trans hq)]
      exact ih _ _ ((answer_kept a r s).1.cfg.trans hcfg) (h.answer a hcfg hq hs)

theorem beginOp (p : Port) (body : List Line) {s : State} {b' : Block} (hcfg : s.cfg = cfg)
    (hR : R s.block b' s.trace [] body) :
    Paired R F (beginOp p body s) (Machine.beginOp p body { s with block := b' }) := by
  refine h.drain s.env _ _ ((proceed_kept p body 0 [] { s with env := [] }).1.cfg.trans hcfg) ?_
  exact h.proceed p body 0 [] { s with env := [] } s.block b' hcfg (by simpa using hR)

theorem instrSequence : ∀ (bs : List Byte) (s s' : State),
    (∀ x ∈ bs, ∀ {b b' tr}, F b b' tr → R b b' tr [] (instrBody x)) → s.cfg = cfg → s.seq = .between → Paired R F s s' →
      Paired R F (instrSequence bs s) (Machine.instrSequence bs s') := by
  intro bs
  induction bs with
  | nil => exact fun _ _ _ _ _ hs => hs
  | cons x bs ih =>
    intro s s' hstart hcfg hq hs
    have hb : Paired R F (Machine.beginOp .host (instrBody x) s) (Machine.beginOp .host (instrBody x) s') := by
      obtain ⟨b', rfl, hc⟩ := hs
      exact h.beginOp .host _ hcfg (hstart x (by simp) ((claimAt_between hq).1 hc))
    unfold Machine.instrSequence
    rw [hb.seq_eq]
    cases hq1 : (Machine.beginOp .host (instrBody x) s).seq with
    | between => exact ih _ _ (fun y hy => hstart y (by simp [hy])) ((beginOp_kept _ _ s).cfg.trans hcfg) hq1 hb
    | running r =>
      obtain ⟨c', hc', hcl⟩ := hb
      rw [hc']
      exact ⟨c', rfl, hcl⟩

/-- An operation performed from either of two paired states: both go on, and are paired again. -/
theorem exec {i : Instr} {s s' : State} (hcfg : s.cfg = cfg)
    (hstart : ∀ {b b' tr}, F b b' tr → ∀ j ∈ i.expand, R b b' tr [] (bodyOf cfg j)) (hs : Paired R F s s') :
    ∃ t t', exec i s = .next t ∧ Machine.exec i s' = .next t' ∧ Paired R F t t' := by
  cases hq : s.seq with
  | running r =>
    refine ⟨_, _, exec_running hq, exec_running (hs.seq_eq.trans hq), ?_⟩
    obtain ⟨b', rfl, hc⟩ := hs
    exact ⟨b', rfl, hc⟩
  | between =>
    have hq' := hs.seq_eq.trans hq
    by_cases hi : i = .lcdboot
    · subst hi
      refine ⟨_, _, exec_lcdboot_between hq, exec_lcdboot_between hq', h.instrSequence _ s s' ?_ hcfg hq hs⟩
      intro x hx b b' tr hF
      exact hstart hF (.instr x) (List.mem_map_of_mem hx)
    · refine ⟨_, _, exec_between hi hq, exec_between hi hq', ?_⟩
      obtain ⟨b', rfl, hc⟩ := hs
      have hj : i ∈ i.expand := by cases i <;> simp_all [Instr.expand]
      subst hcfg
      exact h.beginOp _ _ rfl (hstart ((claimAt_between hq).1 hc) i hj)

end Simulates
end
end Sys2Proof.Machine

namespace Sys2Proof.Machine

/-! ### One run

The claims about a single run are those about a run beside itself. -/

/-- However a body goes on, with the block and bus steps it goes on with, or with the block it ends with. -/
def Cont.Meets (G : Block → List Act → Prop) (F : Block → Prop) : Cont → Prop
  | .go b acts => G b acts
  | .raise b _ => F b
  | .done b _ => F b

theorem Cont.Meets.imp {G G' : Block → List Act → Prop} {F F' : Block → Prop} {c : Cont} (h : c.Meets G F)
    (hG : ∀ b acts, G b acts → G' b acts) (hF : ∀ b, F b → F' b) : c.Meets G' F' := by
  cases c with
  | go b acts => exact hG b acts h
  | raise b e => exact hF b h
  | done b v => exact hF b h

/-- Every line and every answered bus step keeps the claim `R` about the block, the trace and what is to come, or ends the operation in `F`. -/
structure Keeps (cfg : Config) (R : Block → List Tx → List Act → List Line → Prop) (F : Block → List Tx → Prop) : Prop where
  line : ∀ {b tr l ls}, R b tr [] (l :: ls) →
    (l.perform cfg b).Meets (fun c acts => R c (tr ++ awaited acts) acts ls) (fun c => F c tr)
  stop : ∀ {b tr}, R b tr [] [] → F b tr
  act : ∀ {b tr a as ls} (d : Byte), R b tr (a :: as) ls →
    (a.onOk cfg b d).Meets (fun c acts => R c (tr ++ awaited (acts ++ as)) (acts ++ as) ls) (fun c => F c tr)
  error : ∀ {b tr a as ls}, R b tr (a :: as) ls → F { b with stale := true } tr

/-- The state meets the claim. -/
def Holds (R : Block → List Tx → List Act → List Line → Prop) (F : Block → List Tx → Prop) (s : State) : Prop :=
  match s.seq with
  | .between => F s.block s.trace
  | .running r => R s.block s.trace (r.act :: r.acts) r.lines

/-- What a step with a next state can do: go on with the operation in progress, wait, or perform an operation that waits or is the stream's next. -/
theorem step_cases {s t : State} (h : step s = .next t) :
    (∃ r, s.seq = .running r ∧ t = resume s) ∨ t = s ∨
      ∃ i q inp off, s.seq = .between ∧ exec i { s with queued := q, input := inp, offset := off } = .next t := by
  unfold step at h
  cases hq : s.seq with
  | running r => simp only [hq] at h; cases h; exact .inl ⟨r, rfl, rfl⟩
  | between =>
    simp only [hq] at h
    cases hw : s.queued with
    | cons i q =>
      simp only [hw] at h
      exact .inr (.inr ⟨i, q, s.input, s.offset, rfl, h⟩)
    | nil =>
      simp only [hw] at h
      cases hin : s.input with
      | nil => simp only [hin] at h; cases h; exact .inr (.inl rfl)
      | cons x xs =>
        simp only [hin] at h
        cases hd : decodeOne s.offset s.input with
        | error e => simp [fetch, hd] at h
        | ok p =>
          simp only [fetch, hd, hq] at h
          exact .inr (.inr ⟨p.1, s.queued, p.2, s.offset + (s.input.length - p.2.length), rfl, h⟩)

/-! ### The configuration stays -/

theorem instrSequence_cfg : ∀ (bs : List Byte) (s : State), (instrSequence bs s).cfg = s.cfg := by
  intro bs
  induction bs with
  | nil => exact fun _ => rfl
  | cons x bs ih =>
    intro s
    unfold instrSequence
    split
    · exact (ih _).trans (beginOp_kept _ _ s).cfg
    · exact (beginOp_kept _ _ s).cfg

theorem exec_cfg {i : Instr} {s t : State} (h : exec i s = .next t) : t.cfg = s.cfg := by
  cases hq : s.seq with
  | running r => rw [exec_running hq] at h; cases h; rfl
  | between =>
    by_cases hi : i = .lcdboot
    · subst hi; rw [exec_lcdboot_between hq] at h; cases h; exact instrSequence_cfg _ s
    · rw [exec_between hi hq] at h; cases h; exact (beginOp_kept _ _ s).cfg

theorem resume_cfg (s : State) : (resume s).cfg = s.cfg := by
  unfold resume
  split
  · exact (drain_kept _ _).cfg
  · exact (drain_kept _ _).cfg

/-- R9: a step changes no parameter. -/
theorem step_cfg {s t : State} (h : step s = .next t) : t.cfg = s.cfg := by
  obtain ⟨r, -, rfl⟩ | rfl | ⟨i, q, inp, off, -, hi⟩ := step_cases h
  · exact resume_cfg s
  · rfl
  · exact exec_cfg (s := { s with queued := q, input := inp, offset := off }) hi

/-- LCDBOOT stands for INSTRs, and every other operation for itself. -/
theorem mem_expand {i j : Instr} (h : j ∈ i.expand) : (j = i ∧ i ≠ .lcdboot) ∨ ∃ x, j = .instr x := by
  cases i
  case lcdboot =>
    obtain ⟨x, -, rfl⟩ := List.mem_map.1 h
    exact .inr ⟨x, rfl⟩
  all_goals exact .inl ⟨List.mem_singleton.1 h, nofun⟩

theorem expand_eq_self {i : Instr} (h : i ≠ .lcdboot) : i.expand = [i] := by
  cases i <;> simp_all [Instr.expand]

theorem ne_lcdboot_of_mem_expand {i j : Instr} (h : j ∈ i.expand) : j ≠ .lcdboot := by
  obtain ⟨rfl, hi⟩ | ⟨x, rfl⟩ := mem_expand h
  · exact hi
  · simp

theorem ne_init_of_mem_expand {i j : Instr} (h : j ∈ i.expand) (hi : i ≠ .init) : j ≠ .init := by
  obtain ⟨rfl, -⟩ | ⟨x, rfl⟩ := mem_expand h
  · exact hi
  · simp

section
variable {R : Block → List Tx → List Act → List Line → Prop} {F : Block → List Tx → Prop}

theorem holds_between {s : State} (hq : s.seq = .between) : Holds R F s ↔ F s.block s.trace := by simp [Holds, hq]

theorem holds_running {s : State} {r : Running} (hq : s.seq = .running r) :
    Holds R F s ↔ R s.block s.trace (r.act :: r.acts) r.lines := by simp [Holds, hq]

/-- A claim about the block alone is one about the state's block. -/
theorem holds_block {C : Block → Prop} {s : State} : Holds (fun b _ _ _ => C b) (fun b _ => C b) s ↔ C s.block := by
  unfold Holds; split <;> rfl

/-- A claim that holds at every point of an operation holds wherever it stands. -/
theorem Holds.everywhere {s : State} (h : Holds R F s) (hRF : ∀ {b tr acts ls}, R b tr acts ls → F b tr) :
    F s.block s.trace := by
  unfold Holds at h
  split at h
  · exact h
  · exact hRF h

theorem Cont.Meets.related {G : Block → List Act → Prop} {F : Block → Prop} {c : Cont} (h : c.Meets G F) :
    c.Related (fun b b' acts => b' = b ∧ G b acts) (fun b b' => b' = b ∧ F b) c := by
  cases c with
  | go b acts => exact .go ⟨rfl, h⟩
  | raise b e => exact .raise ⟨rfl, h⟩
  | done b v => exact .done ⟨rfl, h⟩

namespace Keeps
variable {cfg : Config} (h : Keeps cfg R F)

include h in
theorem simulates :
    Simulates cfg (fun b b' tr acts ls => b' = b ∧ R b tr acts ls) (fun b b' tr => b' = b ∧ F b tr) where
  line := by rintro b _ tr l ls ⟨rfl, hR⟩; exact (h.line hR).related
  stop := by rintro b _ tr ⟨rfl, hR⟩; exact ⟨rfl, h.stop hR⟩
  act := by rintro b _ tr a as ls d ⟨rfl, hR⟩; exact (h.act d hR).related
  error := by rintro b _ tr a as ls ⟨rfl, hR⟩; exact ⟨rfl, h.error hR⟩

theorem paired_self (s : State) :
    Paired (fun b b' tr acts ls => b' = b ∧ R b tr acts ls) (fun b b' tr => b' = b ∧ F b tr) s s ↔ Holds R F s := by
  cases hq : s.seq with
  | between =>
    rw [holds_between hq]
    exact ⟨fun ⟨_, _, hc⟩ => ((claimAt_between hq).1 hc).2, fun hF => ⟨s.block, rfl, (claimAt_between hq).2 ⟨rfl, hF⟩⟩⟩
  | running r =>
    rw [holds_running hq]
    exact ⟨fun ⟨_, _, hc⟩ => ((claimAt_running hq).1 hc).2, fun hR => ⟨s.block, rfl, (claimAt_running hq).2 ⟨rfl, hR⟩⟩⟩

include h

theorem answer (a : Answer) {r : Running} {s : State} (hcfg : s.cfg = cfg) (hq : s.seq = .running r) (hs : Holds R F s) :
    Holds R F (answer a r s) :=
  (paired_self _).1 (h.simulates.answer a hcfg hq ((paired_self s).2 hs))

theorem drain (as : List Answer) {s : State} (hcfg : s.cfg = cfg) (hs : Holds R F s) : Holds R F (drain as s) :=
  (paired_self _).1 (h.simulates.drain as s s hcfg ((paired_self s).2 hs))

/-- An operation keeps the claim, whatever it is and whatever the answers. -/
theorem exec {i : Instr} {s t : State} (hcfg : s.cfg = cfg)
    (hstart : ∀ {b tr}, F b tr → ∀ j ∈ i.expand, R b tr [] (bodyOf cfg j)) (hs : Holds R F s) (ht : exec i s = .next t) :
    Holds R F t := by
  obtain ⟨u, u', hu, hu', hp⟩ := h.simulates.exec (i := i) hcfg
    (by rintro b _ tr ⟨rfl, hF⟩ j hj; exact ⟨rfl, hstart hF j hj⟩) ((paired_self s).2 hs)
  obtain rfl : u = t := by simpa [ht] using hu.symm
  obtain rfl : u' = u := by simpa [ht] using hu'.symm
  exact (paired_self _).1 hp

/-- The operation in progress keeps the claim, with the answers given or with one drawn. -/
theorem resume {s : State} (hcfg : s.cfg = cfg) (hs : Holds R F s) : Holds R F (resume s) := by
  unfold Machine.resume
  split
  · exact h.drain _ (s := { s with draws := s.draws + 1 }) hcfg hs
  · exact h.drain _ (s := { s with env := [] }) hcfg hs

/-- A claim that every operation may start from is kept by every step. -/
theorem step (hstart : ∀ {b tr}, F b tr → ∀ j : Instr, j ≠ .lcdboot → R b tr [] (bodyOf cfg j)) {s t : State}
    (hcfg : s.cfg = cfg) (hs : Holds R F s) (ht : step s = .next t) : Holds R F t := by
  have hexec : ∀ {i : Instr} {u : State}, u.cfg = cfg → Holds R F u → Machine.exec i u = .next t → Holds R F t := by
    intro i u hu hh
    exact h.exec hu (fun hF j hj => hstart hF j (ne_lcdboot_of_mem_expand hj)) hh
  obtain ⟨r, -, rfl⟩ | rfl | ⟨i, q, inp, off, -, hi⟩ := step_cases ht
  · exact h.resume hcfg hs
  · exact hs
  · exact hexec (u := { s with queued := q, input := inp, offset := off }) hcfg hs hi

end Keeps
end

/-! ### What the guarded lines and DECIDE lead to -/

section
variable (cfg : Config) (b : Block) (G : Block → List Act → Prop) (F : Block → Prop)

@[simp] theorem meets_go (acts : List Act) : (Cont.go b acts).Meets G F ↔ G b acts := Iff.rfl
@[simp] theorem meets_raise (e : OpError) : (Cont.raise b e).Meets G F ↔ F b := Iff.rfl
@[simp] theorem meets_done (v : Value) : (Cont.done b v).Meets G F ↔ F b := Iff.rfl

@[simp] theorem meets_requireReady :
    (requireReady b).Meets G F ↔ (b.ready = true → G b []) ∧ (b.ready = false → F b) := by
  unfold requireReady; split <;> simp_all

@[simp] theorem meets_lcdPrologue : (lcdPrologue cfg b).Meets G F ↔
    (b.ready = true → displayState cfg b = .commandPolling → G b [.pollSetup (pollLo cfg b) (pollHi cfg b)]) ∧
      (b.ready = true → displayState cfg b = .idle → G b []) ∧ (b.ready = false → F b) := by
  unfold lcdPrologue
  cases b.ready <;> cases displayState cfg b <;> simp

@[simp] theorem meets_requirePattern (n : Nat) :
    (requirePattern b n).Meets G F ↔ (n = 8 → G b []) ∧ (n ≠ 8 → F b) := by
  unfold requirePattern; split <;> simp_all

@[simp] theorem meets_requireSlot (slot : Byte) : (requireSlot cfg b slot).Meets G F ↔
    (¬(cfg.slotPolicy = .reject ∧ 7 < slot.toNat) → G b []) ∧ (cfg.slotPolicy = .reject ∧ 7 < slot.toNat → F b) := by
  unfold requireSlot; split <;> simp_all

@[simp] theorem meets_tickGate : ((Line.tickGate).perform cfg b).Meets G F ↔
    (b.notifier = .armed → G b []) ∧ (b.notifier ≠ .armed → F b) := by
  simp only [Line.perform]; split <;> simp_all

@[simp] theorem meets_pollDecide (lo hi : Byte) (n : Nat) (r : Byte) : (pollDecide cfg b lo hi n r).Meets G F ↔
    (busyFlag cfg r = true → pollExpired cfg n = true → F b) ∧
      (busyFlag cfg r = true → pollExpired cfg n = false → G b [.pollStrobeHi lo hi n]) ∧
      (busyFlag cfg r = false → G b [.pollExit (b.ddrb &&& ~~~cfg.ddrbD7Dir)]) := by
  unfold pollDecide
  cases busyFlag cfg r <;> cases pollExpired cfg n <;> simp

end

/-! ### Closed is final -/

theorem initialised_closed {cfg : Config} {b : Block} (h : b.notifier = .closed) : (initialised cfg b).notifier = .closed := by
  simp [initialised, armNotifier, h]

theorem closed_keeps (cfg : Config) : Keeps cfg (fun b _ _ _ => b.notifier = .closed) (fun b _ => b.notifier = .closed) where
  line := by
    intro b tr l ls h
    cases l
    case finishInit => exact initialised_closed h
    all_goals simp [Line.perform, h]
  stop := id
  act := by
    intro b tr a as ls d h
    cases a <;> simp [Act.onOk, tickDecide, h]
  error := id

/-- Settles O47: INIT arms an Unarmed notifier only, and no other line writes the notifier but CLOSE's. -/
theorem closedIsFinal : Obligations.ClosedIsFinal := by
  intro s t h ht
  exact holds_block.1 ((closed_keeps s.cfg).step (fun hF _ _ => hF) rfl (holds_block.2 h) ht)

end Sys2Proof.Machine

namespace Sys2Proof.Machine

/-! ### The ghost flag -/

theorem claimAt_block {C : Block → Block → Prop} {s : State} {b' : Block} :
    claimAt (fun b b' _ _ _ => C b b') (fun b b' _ => C b b') s b' ↔ C s.block b' := by
  unfold claimAt; split <;> rfl

theorem Cont.Related.ite {G : Block → Block → List Act → Prop} {F : Block → Block → Prop} {p : Prop} [Decidable p]
    {c c' d d' : Cont} (h : p → Cont.Related G F c c') (h' : ¬p → Cont.Related G F d d') :
    Cont.Related G F (if p then c else d) (if p then c' else d') := by
  by_cases hp : p
  · simpa only [if_pos hp] using h hp
  · simpa only [if_neg hp] using h' hp

/-- The blocks differ in `stale` at most. -/
def SameButStale (b b' : Block) : Prop := ∃ x, b' = { b with stale := x }

/-- The poll's decision does not look at `stale`. -/
theorem pollDecide_stale (cfg : Config) (b : Block) (x : Bool) (lo hi : Byte) (n : Nat) (r : Byte) :
    Cont.Related (fun b b' _ => SameButStale b b') SameButStale
      (pollDecide cfg b lo hi n r) (pollDecide cfg { b with stale := x } lo hi n r) :=
  .ite (fun _ => .ite (fun _ => .raise ⟨x, rfl⟩) fun _ => .go ⟨x, rfl⟩) fun _ => .go ⟨x, rfl⟩

/-- Nor does a prologue. -/
theorem lcdPrologue_stale (cfg : Config) (b : Block) (x : Bool) :
    Cont.Related (fun b b' _ => SameButStale b b') SameButStale (lcdPrologue cfg b) (lcdPrologue cfg { b with stale := x }) := by
  unfold lcdPrologue
  rw [displayState_congr (cfg := cfg) (blk := b) (blk' := { b with stale := x }) rfl]
  refine .ite (fun _ => ?_) fun _ => .raise ⟨x, rfl⟩
  cases displayState cfg b with
  | idle => exact .go ⟨x, rfl⟩
  | commandPolling => exact .go ⟨x, rfl⟩

/-- No line and no bus step reads `stale`: INIT writes it, and so does a failed transaction. -/
theorem stale_simulates (cfg : Config) :
    Simulates cfg (fun b b' _ _ _ => SameButStale b b') (fun b b' _ => SameButStale b b') where
  line := by
    rintro b _ tr l ls ⟨x, rfl⟩
    cases l
    case requireReady => exact .ite (fun _ => .go ⟨x, rfl⟩) fun _ => .raise ⟨x, rfl⟩
    case prologue => exact lcdPrologue_stale cfg b x
    case requirePattern => exact .ite (fun _ => .go ⟨x, rfl⟩) fun _ => .raise ⟨x, rfl⟩
    case requireSlot => exact .ite (fun _ => .raise ⟨x, rfl⟩) fun _ => .go ⟨x, rfl⟩
    case tickGate => exact .ite (fun _ => .go ⟨x, rfl⟩) fun _ => .done ⟨x, rfl⟩
    case finishInit => exact .go ⟨(initialised cfg b).stale, rfl⟩
    case ret => exact .done ⟨x, rfl⟩
    all_goals exact .go ⟨x, rfl⟩
  stop := id
  act := by
    rintro b _ tr a as ls d ⟨x, rfl⟩
    cases a
    case pollStrobeRest lo hi n r => exact pollDecide_stale cfg (setPortB [lo, hi, lo] b) x lo hi (n + 1) r
    case readButtons => exact .done ⟨x, rfl⟩
    case readTick => exact .done ⟨x, rfl⟩
    all_goals exact .go ⟨x, rfl⟩
  error := by
    rintro b _ tr a as ls ⟨x, rfl⟩
    exact ⟨true, rfl⟩

/-- Settles O60: the two runs stay equal but for the flag. -/
theorem staleIsAGhost : Obligations.StaleIsAGhost := by
  intro i s t b ht
  have hs : Paired (fun b b' _ _ _ => SameButStale b b') (fun b b' _ => SameButStale b b') s (s.withStale b) :=
    ⟨_, rfl, claimAt_block.2 ⟨b, rfl⟩⟩
  obtain ⟨u, t', hu, ht', b', rfl, hc⟩ := (stale_simulates s.cfg).exec (i := i) rfl (fun hF _ _ => hF) hs
  obtain rfl : u = t := by simpa [ht] using hu.symm
  obtain ⟨x, rfl⟩ := claimAt_block.1 hc
  exact ⟨_, ht', rfl⟩

/-! ### The fields without a value before INIT -/

/-- The blocks agree but for the shadows and the mask, and once INIT is done the shadows agree too. -/
structure SameButUnset (b b' : Block) : Prop where
  ready : b'.ready = b.ready
  stale : b'.stale = b.stale
  notifier : b'.notifier = b.notifier
  shadows : b.ready = true → b'.porta = b.porta ∧ b'.portb = b.portb ∧ b'.ddrb = b.ddrb

/-- Lines that, before INIT, end the operation without a transaction and without reading a shadow. -/
def endsBeforeInit : List Line → Bool
  | [] => true
  | .requireReady :: _ => true
  | .prologue :: _ => true
  | .ret _ :: _ => true
  | .tickGate :: ls => endsBeforeInit ls
  | .close :: ls => endsBeforeInit ls
  | _ :: _ => false

/-- Every body but INIT's begins with such lines (R143, R145). -/
theorem endsBeforeInit_bodyOf (cfg : Config) {i : Instr} (h : i ≠ .init) : endsBeforeInit (bodyOf cfg i) = true := by
  cases i
  case init => exact absurd rfl h
  all_goals rfl

/-- Before INIT an operation other than INIT reads none of those fields. -/
theorem beforeInit_simulates (cfg : Config) :
    Simulates cfg (fun b b' _ acts ls => SameButUnset b b' ∧ b.ready = false ∧ acts = [] ∧ endsBeforeInit ls = true)
      (fun b b' _ => SameButUnset b b' ∧ b.ready = false) where
  line := by
    rintro b b' tr l ls ⟨h, hr, -, hl⟩
    have hr' : b'.ready = false := h.ready.trans hr
    cases l
    case requireReady => simpa [Line.perform, requireReady, hr, hr'] using .raise ⟨h, hr⟩
    case prologue => simpa [Line.perform, lcdPrologue, hr, hr'] using .raise ⟨h, hr⟩
    case ret => exact .done ⟨h, hr⟩
    case tickGate =>
      simp only [Line.perform, h.notifier]
      exact .ite (fun _ => .go ⟨h, hr, rfl, hl⟩) fun _ => .done ⟨h, hr⟩
    case close => exact .go ⟨⟨h.ready, h.stale, rfl, h.shadows⟩, hr, rfl, hl⟩
    all_goals simp [endsBeforeInit] at hl
  stop := fun ⟨h, hr, _⟩ => ⟨h, hr⟩
  act := fun _ ⟨_, _, hacts, _⟩ => by simp at hacts
  error := fun ⟨_, _, hacts, _⟩ => by simp at hacts

/-- INIT's own lines and bus steps. -/
def isInitLine : Line → Bool
  | .enterInit => true
  | .busWR _ _ => true
  | .finishInit => true
  | _ => false

def isBusWR : Act → Bool
  | .busWR _ _ => true
  | _ => false

theorem initBody_isInitLine (cfg : Config) : ∀ l ∈ initBody cfg, isInitLine l = true := by
  simp [initBody, isInitLine]

/-- R94: the shadows after INIT are the configuration's, whatever they were. -/
theorem initialised_sameButUnset (cfg : Config) {b b' : Block} (h : SameButUnset b b') :
    SameButUnset (initialised cfg b) (initialised cfg b') := by
  refine ⟨by simp [initialised], by simp [initialised], ?_, fun _ => by simp [initialised]⟩
  simp only [initialised, armNotifier, h.notifier]
  split <;> rfl

/-- INIT reads none of those fields. -/
theorem init_simulates (cfg : Config) :
    Simulates cfg
      (fun b b' _ acts ls => SameButUnset b b' ∧ (∀ a ∈ acts, isBusWR a = true) ∧ ∀ l ∈ ls, isInitLine l = true)
      (fun b b' _ => SameButUnset b b') where
  line := by
    rintro b b' tr l ls ⟨h, -, hl⟩
    obtain ⟨hl, hls⟩ := List.forall_mem_cons.1 hl
    cases l
    case enterInit => exact .go ⟨⟨rfl, h.stale, h.notifier, nofun⟩, nofun, hls⟩
    case busWR => exact .go ⟨h, by simp [isBusWR], hls⟩
    case finishInit => exact .go ⟨initialised_sameButUnset cfg h, nofun, hls⟩
    all_goals simp [isInitLine] at hl
  stop := fun ⟨h, _⟩ => h
  act := by
    rintro b b' tr a as ls d ⟨h, ha, hls⟩
    obtain ⟨ha, has⟩ := List.forall_mem_cons.1 ha
    cases a
    case busWR => exact .go ⟨h, has, hls⟩
    all_goals simp [isBusWR] at ha
  error := fun ⟨h, _⟩ => ⟨h.ready, rfl, h.notifier, h.shadows⟩

/-- With other values in the fields that have none yet, every operation before INIT goes the same way. -/
theorem exec_sameButUnset (i : Instr) {s : State} {b' : Block} (hq : s.seq = .between) (hr : s.block.ready = false)
    (h : SameButUnset s.block b') :
    ∃ t c', exec i s = .next t ∧ exec i { s with block := b' } = .next { t with block := c' } ∧ SameButUnset t.block c' := by
  by_cases hi : i = .init
  · subst hi
    obtain ⟨t, _, ht, ht', c', rfl, hc⟩ := (init_simulates s.cfg).exec (i := .init) rfl
      (fun hF j hj => by
        obtain rfl := List.mem_singleton.1 hj
        exact ⟨hF, nofun, initBody_isInitLine _⟩)
      ⟨b', rfl, (claimAt_between hq).2 h⟩
    exact ⟨t, c', ht, ht', hc.everywhere fun h => h.1⟩
  · obtain ⟨t, _, ht, ht', c', rfl, hc⟩ := (beforeInit_simulates s.cfg).exec (i := i) rfl
      (fun ⟨hF, hr⟩ j hj => ⟨hF, hr, rfl, endsBeforeInit_bodyOf _ (ne_init_of_mem_expand hj hi)⟩)
      ⟨b', rfl, (claimAt_between hq).2 ⟨h, hr⟩⟩
    exact ⟨t, c', ht, ht', (hc.everywhere fun ⟨h, hr, _⟩ => ⟨h, hr⟩).1⟩

/-- Settles O11: INIT overwrites the fields, and every other operation ends before it reads one. -/
theorem valuesBeforeInitNeverShow : Obligations.ValuesBeforeInitNeverShow := by
  intro i s t pa pb dd pm hq hr ht
  obtain ⟨u, c', hu, hu', h⟩ := exec_sameButUnset i (s := s)
    (b' := { s.block with porta := pa, portb := pb, ddrb := dd, prevMask := pm }) hq hr
    ⟨rfl, rfl, rfl, fun hn => by simp [hr] at hn⟩
  obtain rfl : u = t := by simpa [ht] using hu.symm
  exact ⟨_, hu', rfl, rfl, rfl, rfl, rfl, h.ready, h.shadows⟩

end Sys2Proof.Machine

namespace Sys2Proof.Machine

/-! ### Facts about the bytes of frames and ports -/

theorem getLastD_of_ne_nil {α : Type} {l : List α} (h : l ≠ []) (a b : α) : l.getLastD a = l.getLastD b := by
  simp [List.getLastD_eq_getLast?, List.getLast?_eq_some_getLast h]

theorem frame_getLastD (cfg : Config) (pre : List Byte) (m v d : Byte) :
    (pre ++ frame cfg m v).getLastD d = m ||| flipTable cfg (lowNibble v) := by
  simp [List.getLastD_eq_getLast?, frame]

/-- R106: every batch ends with a whole frame. -/
theorem batchesFrom_ends (cfg : Config) (m : Byte) : ∀ (vs buf wr : List Byte), wr ∈ batchesFrom cfg vs buf m →
    ∃ pre v, wr = pre ++ frame cfg m v := by
  intro vs
  induction vs with
  | nil => intro buf wr h; simp [batchesFrom] at h
  | cons v vs ih =>
    intro buf wr h
    rw [batchesFrom] at h
    split at h
    · rcases List.mem_cons.1 h with rfl | h
      · exact ⟨buf, v, rfl⟩
      · exact ih _ _ h
    · exact ih _ _ h

theorem or_and_not_self (a m : Byte) : (a ||| m) &&& ~~~m = a &&& ~~~m := by
  ext i hi
  simp only [BitVec.getElem_and, BitVec.getElem_or, BitVec.getElem_not]
  cases m[i] <;> simp

theorem and_and_not_self (a m : Byte) : (a &&& m) &&& ~~~m = 0 := by
  ext i hi
  simp

theorem and_not_idem (a m : Byte) : (a &&& ~~~m) &&& ~~~m = a &&& ~~~m := by rw [BitVec.and_assoc, BitVec.and_self]

/-- R82: a colour changes red and green alone in port A. -/
theorem colorPortA_other (cfg : Config) (pa color : Byte) :
    colorPortA cfg pa color &&& ~~~(cfg.pinRed ||| cfg.pinGreen) = pa &&& ~~~(cfg.pinRed ||| cfg.pinGreen) := by
  unfold colorPortA maskIf
  ext i hi
  split <;> split <;> simp only [BitVec.getElem_and, BitVec.getElem_or, BitVec.getElem_not] <;>
    cases cfg.pinRed[i] <;> cases cfg.pinGreen[i] <;> simp

/-- R82: a colour leaves E. -/
theorem colorPortB_eLow {cfg : Config} (h : cfg.wf = true) {pb : Byte} (hpb : eLow cfg pb) (color : Byte) :
    eLow cfg (colorPortB cfg pb color) := by
  obtain ⟨-, -, ⟨-, -, -, -, hb⟩, -⟩ := wf_disjoint h
  refine or_and_eq_zero ?_ (maskIf_and_eq_zero _ (and_eq_zero_comm hb))
  rw [BitVec.and_assoc, BitVec.and_comm (~~~cfg.pinBlue), ← BitVec.and_assoc, show pb &&& cfg.pinE = 0 from hpb]
  exact BitVec.zero_and

/-! ### The invariant's claim about an operation in progress -/

/-- Lines that are in order while D7 may be an input are in order while it is an output. -/
theorem linesOk_mono : ∀ (ls : List Line) (idle : Bool), linesOk false ls = true → linesOk idle ls = true := by
  intro ls idle
  cases idle with
  | false => exact id
  | true =>
    induction ls with
    | nil => exact id
    | cons l ls ih => cases l <;> simp_all [linesOk]

/-- The invariant's claims about the block that do not depend on the sequencer. -/
structure BlockOk (cfg : Config) (b : Block) : Prop where
  porta : b.ready = true → portaOk cfg b.porta
  ddrb : b.ready = true → ddrbOk cfg b.ddrb
  mask : b.prevMask &&& ~~~cfg.buttonMask = 0
  armed : b.notifier = .armed → 0 < cfg.interval

/-- Its claim about an operation after INIT: `runningOk`, which looks at neither port nor count, while a transaction is awaited, and what
leads to it before a line. -/
def opOk (cfg : Config) (b : Block) : List Act → List Line → Prop
  | [], ls => linesOk (displayState cfg b == .idle) ls = true ∧ (b.stale = true ∨ eLow cfg b.portb)
  | a :: as, ls => runningOk cfg b { port := .host, act := a, acts := as, lines := ls, emitted := 0 }

/-- Its claim about an INIT: before its first line, or with a write to come. -/
def initOk (b : Block) (acts : List Act) (ls : List Line) : Prop :=
  (acts = [] ∧ ∃ ls', ls = .enterInit :: ls' ∧ initLines ls' = true) ∨
    b.ready = false ∧ (acts = [] ∨ ∃ reg bs, acts = [.busWR reg bs]) ∧ initLines ls = true

/-- Its claim about what is to come: an operation after INIT, one that ends before INIT, or an INIT. -/
def toComeOk (cfg : Config) (b : Block) (acts : List Act) (ls : List Line) : Prop :=
  (b.ready = true ∧ opOk cfg b acts ls) ∨ (b.ready = false ∧ acts = [] ∧ endsBeforeInit ls = true) ∨ initOk b acts ls

/-- Its claim between operations. -/
def betweenOk (cfg : Config) (b : Block) : Prop := BlockOk cfg b ∧ (b.ready = true → b.stale = false → eLow cfg b.portb)

section
variable {cfg : Config} {b : Block}

theorem BlockOk.betweenOk (h : BlockOk cfg b) (hlow : b.stale = true ∨ eLow cfg b.portb) : betweenOk cfg b :=
  ⟨h, fun _ hs => hlow.resolve_left (by simp [hs])⟩

/-- The claim about a bus step looks at DDRB and `stale` alone. -/
theorem actOk_congr {c : Block} (hd : c.ddrb = b.ddrb) (hs : c.stale = b.stale) (a : Act) : actOk cfg c a ↔ actOk cfg b a := by
  cases a <;> simp [actOk, displayState, hd, hs]

theorem opOk_single {a : Act} {ls : List Line} (ha : actOk cfg b a) (hl : linesOk (idleAfter cfg b a) ls = true)
    (hlow : b.stale = true ∨ eLow cfg b.portb ∨ eMayBeHigh a = true) : opOk cfg b [a] ls :=
  ⟨by simpa using ha, nofun, by simp, hl, hlow⟩

/-- Frames are sent one after the other while D7 is an output. -/
theorem opOk_frames {as : List Act} {ls : List Line} (has : ∀ a ∈ as, isFrames a = true ∧ actOk cfg b a)
    (hl : linesOk (displayState cfg b == .idle) ls = true) (hlow : b.stale = true ∨ eLow cfg b.portb) : opOk cfg b as ls := by
  cases as with
  | nil => exact ⟨hl, hlow⟩
  | cons a as =>
    obtain ⟨⟨hf, -⟩, htl⟩ := List.forall_mem_cons.1 has
    refine ⟨fun x hx => (has x hx).2, fun x hx => (htl x hx).1, fun _ => hf, ?_, hlow.imp_right .inl⟩
    cases a <;> simp_all [isFrames, idleAfter]

/-- R106, R115 (b): the batches of a sequence may be sent when D7 is an output. -/
theorem batches_actOk (h : cfg.wf = true) (hd : displayState cfg b = .idle) (c : Bool) (vs : List Byte) :
    ∀ a ∈ (batches cfg (base cfg b c) vs).map Act.sendFrames, isFrames a = true ∧ actOk cfg b a := by
  intro a ha
  obtain ⟨wr, hwr, rfl⟩ := List.mem_map.1 ha
  obtain ⟨pre, v, rfl⟩ := batchesFrom_ends cfg _ vs [] wr hwr
  refine ⟨rfl, by simp [frame], ?_, hd⟩
  rw [frame_getLastD]
  exact frame_last_e h b c _

/-- A line of an operation after INIT keeps the claim. -/
theorem opOk_line (h : cfg.wf = true) {l : Line} {ls : List Line} (hb : BlockOk cfg b) (hr : b.ready = true)
    (hop : opOk cfg b [] (l :: ls)) :
    (l.perform cfg b).Meets (fun c acts => BlockOk cfg c ∧ c.ready = true ∧ opOk cfg c acts ls) (betweenOk cfg) := by
  obtain ⟨hl, hlow⟩ := hop
  have hgo : ∀ {idle : Bool}, linesOk (displayState cfg b == .idle) ls = true →
      BlockOk cfg b ∧ b.ready = true ∧ opOk cfg b [] ls := fun hl => ⟨hb, hr, hl, hlow⟩
  have hend := hb.betweenOk hlow
  cases l
  case requireReady => simp_all [Line.perform, linesOk, opOk]
  case prologue =>
    simp only [linesOk] at hl
    simp only [Line.perform, meets_lcdPrologue]
    refine ⟨fun _ _ => ⟨hb, hr, opOk_single (pollLo_e h b) hl (hlow.imp_right .inl)⟩, fun _ hd => ⟨hb, hr, ?_, hlow⟩,
      fun _ => hend⟩
    rw [hd]; exact hl
  case emitByte c v =>
    simp only [linesOk, Bool.and_eq_true, beq_iff_eq] at hl
    obtain ⟨hd, hl⟩ := hl
    refine ⟨hb, hr, opOk_single ⟨by simp [frame], ?_, hd⟩ hl (hlow.imp_right .inl)⟩
    rw [← List.nil_append (frame _ _ _), frame_getLastD]
    exact frame_last_e h b c _
  case emitSeq c vs =>
    simp only [linesOk, Bool.and_eq_true, beq_iff_eq] at hl
    exact ⟨hb, hr, opOk_frames (batches_actOk h hl.1 c vs) hl.2 hlow⟩
  case slowStep x =>
    simp only [linesOk] at hl
    refine ⟨hb, hr, ?_⟩
    split
    · refine opOk_single ?_ hl (hlow.imp_right .inl)
      exact (or_and_not_self _ _).trans (hb.ddrb hr)
    · exact ⟨linesOk_mono ls _ hl, hlow⟩
  case requirePattern => simp_all [Line.perform, linesOk, opOk]
  case requireSlot => simp_all [Line.perform, linesOk, opOk]
  case enterInit => simp [linesOk] at hl
  case busWR => simp [linesOk] at hl
  case finishInit => simp [linesOk] at hl
  case colorA color =>
    refine ⟨hb, hr, opOk_single ?_ hl (hlow.imp_right .inl)⟩
    exact (colorPortA_other cfg _ color).trans (hb.porta hr)
  case colorB color =>
    refine ⟨hb, hr, opOk_single ⟨by simp, ?_⟩ hl (hlow.imp_right .inl)⟩
    exact hlow.imp_right fun hlow => colorPortB_eLow h hlow color
  case sample => exact ⟨hb, hr, opOk_single trivial hl (hlow.imp_right .inl)⟩
  case tickGate => simp_all [linesOk, opOk]
  case tickSample => exact ⟨hb, hr, opOk_single trivial hl (hlow.imp_right .inl)⟩
  case close => exact ⟨⟨hb.porta, hb.ddrb, hb.mask, nofun⟩, hr, hl, hlow⟩
  case ret => exact hend

/-- An answer to a bus step of an operation after INIT keeps the claim. -/
theorem opOk_act {a : Act} {as : List Act} {ls : List Line} (d : Byte) (hb : BlockOk cfg b) (hr : b.ready = true)
    (hop : opOk cfg b (a :: as) ls) :
    (a.onOk cfg b d).Meets (fun c acts => BlockOk cfg c ∧ c.ready = true ∧ opOk cfg c (acts ++ as) ls) (betweenOk cfg) := by
  obtain ⟨hacts, hframes, hfirst, hl, hlow⟩ := hop
  obtain ⟨ha, has⟩ := List.forall_mem_cons.1 hacts
  have hnil : isFrames a = false → as = [] := fun hf => by
    by_contra hne; simp [hfirst hne] at hf
  cases a
  case busWR => exact ha.elim
  case sendFrames bs =>
    obtain ⟨hne, hlast, hd⟩ := ha
    refine ⟨⟨hb.porta, hb.ddrb, hb.mask, hb.armed⟩, hr, opOk_frames (fun x hx => ⟨hframes x hx, ?_⟩) hl (.inr ?_)⟩
    · exact (actOk_congr rfl rfl x).2 (has x hx)
    · rw [setPortB_portb, getLastD_of_ne_nil hne _ 0]; exact hlast
  all_goals
    obtain rfl := hnil rfl
    simp only [eMayBeHigh, Bool.false_eq_true, or_false] at hlow
  case writeGpioA v => exact ⟨⟨fun _ => ha, hb.ddrb, hb.mask, hb.armed⟩, hr, hl, hlow⟩
  case writeGpioB bs =>
    refine ⟨⟨hb.porta, hb.ddrb, hb.mask, hb.armed⟩, hr, hl, ha.2.imp_right fun hlast => ?_⟩
    rw [setPortB_portb, getLastD_of_ne_nil ha.1 _ 0]; exact hlast
  case setDirectionB v => exact ⟨⟨hb.porta, fun _ => ha, hb.mask, hb.armed⟩, hr, linesOk_mono ls _ hl, hlow⟩
  case pollSetup lo hi =>
    exact ⟨⟨hb.porta, hb.ddrb, hb.mask, hb.armed⟩, hr, opOk_single (a := .pollStrobeHi lo hi 0) ha hl (.inr (.inl ha))⟩
  case pollStrobeHi lo hi n =>
    exact ⟨⟨hb.porta, hb.ddrb, hb.mask, hb.armed⟩, hr, opOk_single (a := .pollRead lo hi n) ha hl (.inr (.inr rfl))⟩
  case pollRead lo hi n => exact ⟨hb, hr, opOk_single (a := .pollStrobeRest lo hi n d) ha hl (.inr (.inr rfl))⟩
  case pollStrobeRest lo hi n r =>
    have hb' : BlockOk cfg (setPortB [lo, hi, lo] b) := ⟨hb.porta, hb.ddrb, hb.mask, hb.armed⟩
    have hlo : eLow cfg (setPortB [lo, hi, lo] b).portb := ha
    simp only [Act.onOk, meets_pollDecide]
    exact ⟨fun _ _ => hb'.betweenOk (.inr hlo),
      fun _ _ => ⟨hb', hr, opOk_single (a := .pollStrobeHi lo hi (n + 1)) ha hl (.inr (.inl hlo))⟩,
      fun _ => ⟨hb', hr, opOk_single (a := .pollExit _) (hb.ddrb hr) hl (.inr (.inl hlo))⟩⟩
  case pollExit v =>
    obtain rfl : v = 0 := ha
    have hd : displayState cfg { b with ddrb := 0 } = .idle := by simp [displayState_idle_iff]
    refine ⟨⟨hb.porta, fun _ => BitVec.zero_and, hb.mask, hb.armed⟩, hr, ?_, hlow⟩
    rw [hd]; exact hl
  case readButtons => exact hb.betweenOk hlow
  case readTick => exact BlockOk.betweenOk ⟨hb.porta, hb.ddrb, and_and_not_self _ _, hb.armed⟩ hlow

end

/-- A line before INIT keeps the claim. -/
theorem beforeInit_line {cfg : Config} {b : Block} {l : Line} {ls : List Line} (hb : BlockOk cfg b) (hr : b.ready = false)
    (hl : endsBeforeInit (l :: ls) = true) :
    (l.perform cfg b).Meets (fun c acts => BlockOk cfg c ∧ c.ready = false ∧ acts = [] ∧ endsBeforeInit ls = true)
      (betweenOk cfg) := by
  have hend : betweenOk cfg b := ⟨hb, by simp [hr]⟩
  cases l
  case requireReady => simp [Line.perform, hr, hend]
  case prologue => simp [Line.perform, hr, hend]
  case ret => exact hend
  case tickGate => simp_all [endsBeforeInit]
  case close => exact ⟨⟨hb.porta, hb.ddrb, hb.mask, nofun⟩, hr, rfl, hl⟩
  all_goals simp [endsBeforeInit] at hl

/-- R94, R98: the block that INIT leaves. -/
theorem initialised_blockOk {cfg : Config} (h : cfg.sane = true) {b : Block} (hb : BlockOk cfg b) :
    BlockOk cfg (initialised cfg b) ∧ eLow cfg (initialised cfg b).portb := by
  simp only [Config.sane, Bool.and_eq_true, beq_iff_eq] at h
  obtain ⟨⟨⟨-, hpa⟩, hpb⟩, hdd⟩ := h
  refine ⟨⟨fun _ => ?_, fun _ => ?_, ?_, ?_⟩, ?_⟩
  · rw [initialised, armNotifier_porta]; exact hpa
  · rw [initialised, armNotifier_ddrb]; exact hdd
  · unfold initialised armNotifier
    split
    · exact BitVec.zero_and
    · exact hb.mask
  · unfold initialised armNotifier
    split
    · rename_i harm; exact fun _ => harm.1
    · exact hb.armed
  · rw [initialised, armNotifier_portb]; exact hpb

/-- A line of INIT keeps the claim. -/
theorem initOk_line {cfg : Config} (h : cfg.sane = true) {b : Block} {l : Line} {ls : List Line} (hb : BlockOk cfg b)
    (hi : initOk b [] (l :: ls)) :
    (l.perform cfg b).Meets (fun c acts => BlockOk cfg c ∧ toComeOk cfg c acts ls) (betweenOk cfg) := by
  obtain ⟨-, ls', hl, hls⟩ | ⟨hr, -, hls⟩ := hi
  · obtain ⟨rfl, rfl⟩ := List.cons.inj hl
    exact ⟨⟨nofun, nofun, hb.mask, hb.armed⟩, .inr (.inr (.inr ⟨rfl, .inl rfl, hls⟩))⟩
  · cases l
    case busWR reg bs => exact ⟨hb, .inr (.inr (.inr ⟨hr, .inr ⟨reg, bs, rfl⟩, hls⟩))⟩
    case finishInit =>
      obtain rfl : ls = [] := by cases ls <;> simp_all [initLines]
      obtain ⟨hb', hlow⟩ := initialised_blockOk h hb
      exact ⟨hb', .inl ⟨by simp [initialised], rfl, .inr hlow⟩⟩
    all_goals simp [initLines] at hls

/-- The invariant is kept by every line and every answer (R98, R115). -/
theorem inv_keeps {cfg : Config} (h : cfg.sane = true) :
    Keeps cfg (fun b _ acts ls => BlockOk cfg b ∧ toComeOk cfg b acts ls) (fun b _ => betweenOk cfg b) where
  line := by
    rintro b tr l ls ⟨hb, ⟨hr, hop⟩ | ⟨hr, -, hl⟩ | hi⟩
    · have hwf : cfg.wf = true := by simp_all [Config.sane]
      exact (opOk_line hwf hb hr hop).imp (fun c acts ⟨hb, h⟩ => ⟨hb, .inl h⟩) fun _ => id
    · exact (beforeInit_line hb hr hl).imp (fun c acts ⟨hb, h⟩ => ⟨hb, .inr (.inl h)⟩) fun _ => id
    · exact initOk_line h hb hi
  stop := by
    rintro b tr ⟨hb, ⟨-, -, hlow⟩ | ⟨hr, -⟩ | ⟨-, ls', hl, -⟩ | ⟨-, -, hl⟩⟩
    · exact hb.betweenOk hlow
    · exact ⟨hb, by simp [hr]⟩
    · simp at hl
    · simp [initLines] at hl
  act := by
    rintro b tr a as ls d ⟨hb, ⟨hr, hop⟩ | ⟨-, ha, -⟩ | ⟨ha, -⟩ | ⟨hr, ha, hl⟩⟩
    · exact (opOk_act d hb hr hop).imp (fun c acts ⟨hb, h⟩ => ⟨hb, .inl h⟩) fun _ => id
    · simp at ha
    · simp at ha
    · obtain ⟨reg, bs, ha⟩ := ha.resolve_left (by simp)
      obtain ⟨rfl, rfl⟩ := List.cons.inj ha
      exact ⟨hb, .inr (.inr (.inr ⟨hr, .inl rfl, hl⟩))⟩
  error := fun ⟨hb, _⟩ => ⟨⟨hb.porta, hb.ddrb, hb.mask, hb.armed⟩, by simp⟩

/-- R100, R115: in every body but INIT's each frame comes after a prologue and before the next slow step. -/
theorem linesOk_bodyOf (cfg : Config) (idle : Bool) {i : Instr} (h : i ≠ .init) : linesOk idle (bodyOf cfg i) = true := by
  have htext : ∀ c t, linesOk idle (textBody cfg c t) = true := by
    intro c t
    simp only [textBody]
    generalize splitLines cfg.lineSep t = lines
    rcases lines with _ | ⟨l0, _ | ⟨l1, _⟩⟩ <;> cases c <;> rfl
  cases i
  case init => exact absurd rfl h
  case text t => exact htext false t
  case textc t => exact htext true t
  all_goals rfl

/-- Every operation may begin between operations. -/
theorem betweenOk_start {cfg : Config} {b : Block} (h : betweenOk cfg b) (i : Instr) :
    BlockOk cfg b ∧ toComeOk cfg b [] (bodyOf cfg i) := by
  obtain ⟨hb, hlow⟩ := h
  refine ⟨hb, ?_⟩
  by_cases hi : i = .init
  · subst hi
    exact .inr (.inr (.inl ⟨rfl, _, rfl, rfl⟩))
  · cases hr : b.ready with
    | false => exact .inr (.inl ⟨hr, rfl, endsBeforeInit_bodyOf cfg hi⟩)
    | true =>
      refine .inl ⟨hr, linesOk_bodyOf cfg _ hi, ?_⟩
      cases hs : b.stale with
      | true => exact .inl rfl
      | false => exact .inr (hlow hr hs)

/-- The machine's invariant as a claim about the block and what is to come. -/
theorem inv_iff_holds (s : State) : Inv s ↔ s.cfg.sane = true ∧
    Holds (fun b _ acts ls => BlockOk s.cfg b ∧ toComeOk s.cfg b acts ls) (fun b _ => betweenOk s.cfg b) s := by
  have hblock : BlockOk s.cfg s.block ↔ (s.block.ready = true → portaOk s.cfg s.block.porta ∧ ddrbOk s.cfg s.block.ddrb) ∧
      s.block.prevMask &&& ~~~s.cfg.buttonMask = 0 ∧ (s.block.notifier = .armed → 0 < s.cfg.interval) :=
    ⟨fun h => ⟨fun hr => ⟨h.porta hr, h.ddrb hr⟩, h.mask, h.armed⟩,
      fun ⟨h, hm, ha⟩ => ⟨fun hr => (h hr).1, fun hr => (h hr).2, hm, ha⟩⟩
  have hseq : Inv s ↔ s.cfg.sane = true ∧ BlockOk s.cfg s.block ∧ seqOk s.cfg s.block s.seq := by
    rw [hblock]; simp only [Inv, and_assoc]
  rw [hseq]
  cases hq : s.seq with
  | between => rw [holds_between hq]; rfl
  | running r =>
    rw [holds_running hq]
    refine and_congr_right fun _ => and_congr_right fun _ => ⟨fun h => ?_, fun h => ?_⟩
    · obtain ⟨hr, h⟩ | ⟨hr, ⟨reg, bs, ha⟩, has, hl⟩ := h
      · exact .inl ⟨hr, h⟩
      · exact .inr (.inr (.inr ⟨hr, .inr ⟨reg, bs, by rw [ha, has]⟩, hl⟩))
    · obtain ⟨hr, h⟩ | ⟨-, ha, -⟩ | ⟨ha, -⟩ | ⟨hr, ha, hl⟩ := h
      · exact .inl ⟨hr, h⟩
      · simp at ha
      · simp at ha
      · obtain ⟨reg, bs, ha⟩ := ha.resolve_left (by simp)
        obtain ⟨ha, has⟩ := List.cons.inj ha
        exact .inr ⟨hr, ⟨reg, bs, ha⟩, has, hl⟩

/-- Settles O55: the invariant is a claim that every line, every answer and every beginning of an operation keeps. -/
theorem stepKeepsInvariant : Obligations.StepKeepsInvariant := by
  intro s t hs ht
  obtain ⟨hsane, hh⟩ := (inv_iff_holds s).1 hs
  refine (inv_iff_holds t).2 ?_
  rw [step_cfg ht]
  exact ⟨hsane, (inv_keeps hsane).step (fun hF i _ => betweenOk_start hF i) rfl hh ht⟩

/-- Settles O54: before INIT the invariant asks only for a button mask and a notifier that is not Armed. -/
theorem invariantAtReset : Obligations.InvariantAtReset :=
  (inv_iff_holds _).2 ⟨by decide, ⟨nofun, nofun, by decide, nofun⟩, nofun⟩

end Sys2Proof.Machine

namespace Sys2Proof.Machine

/-! ### The step -/

theorem step_running {s : State} {r : Running} (h : s.seq = .running r) : step s = .next (resume s) := by
  simp [step, h]

theorem step_queued {s : State} {i : Instr} {is : List Instr} (h : s.seq = .between) (hw : s.queued = i :: is) :
    step s = exec i { s with queued := is } := by
  simp [step, h, hw]

theorem step_waits {s : State} (h : s.seq = .between) (hw : s.queued = []) (hin : s.input = []) : step s = .next s := by
  simp [step, h, hw, hin]

/-- Settles O7: what is fetched is the decoded operation, with its bytes taken. -/
theorem stepRunsTheDecodedOperation : Obligations.StepRunsTheDecodedOperation := by
  intro s i rest hq hw hne hd
  obtain ⟨x, xs, hin⟩ := List.exists_cons_of_ne_nil hne
  unfold step
  simp only [hq, hw, hin]
  simp only [fetch, hd, hq, hw, ← hin]

/-- R38: the given answers go to the operation in progress one by one. -/
theorem resume_given {s : State} {r : Running} {a : Answer} {as : List Answer} (h : s.seq = .running r) (he : s.env = a :: as) :
    resume s = drain as (answer a r { s with env := [] }) := by
  unfold resume
  rw [he]
  exact drain_running (s := { s with env := [] }) h a as

/-- A step uses up the stream and what waits only between operations. -/
theorem resume_input_queued (s : State) : (resume s).input = s.input ∧ (resume s).queued = s.queued := by
  unfold resume
  split
  · exact ⟨(drain_kept _ _).input, (drain_kept _ _).queued⟩
  · exact ⟨(drain_kept _ _).input, (drain_kept _ _).queued⟩

/-- Entry 5: a step with no answer given is the step with the drawn answer given. -/
theorem resume_drawn {s : State} (he : s.env = []) :
    resume s = resume (State.giveAnswers [Config.freeAnswer s.draws] { s with draws := s.draws + 1 }) := by
  simp [resume, State.giveAnswers, he]

/-- An operation that has used up its answers and goes on with others ends as if all had been given when it began. -/
theorem resume_beginOp (p : Port) (body : List Line) (s : State) {r : Running} {bs : List Answer}
    (h : (beginOp p body s).seq = .running r) (hbs : bs ≠ []) :
    resume ((beginOp p body s).giveAnswers bs) = beginOp p body (s.giveAnswers bs) := by
  have henv : (beginOp p body s).env = [] :=
    drain_running_env _ _ r (proceed_kept p body 0 [] { s with env := [] }).2 h
  have hall : beginOp p body (s.giveAnswers bs) = drain bs (beginOp p body s) := drain_append s.env bs _ r h
  rw [hall]
  generalize beginOp p body s = u at henv
  obtain ⟨a, as, rfl⟩ := List.exists_cons_of_ne_nil hbs
  simp only [resume, State.giveAnswers, henv, List.nil_append]
  rw [← henv]

/-- Settles O8, a clause for each way a step can go. -/
theorem stepWaitsOrGoesOn : Obligations.StepWaitsOrGoesOn := by
  intro s
  refine ⟨fun i is hq hw => step_queued hq hw, step_waits, ?_, ?_, ?_, ?_, fun i r hq => exec_running hq⟩
  · intro r hq
    exact ⟨resume s, step_running hq, resume_input_queued s⟩
  · intro r a as hq he
    rw [step_running hq, resume_given hq he]
  · intro r hq he
    rw [step_running hq, resume_drawn he]
    exact (step_running (s := State.giveAnswers _ { s with draws := s.draws + 1 }) hq).symm
  · intro i u r bs hi hq hu hr hbs
    rw [exec_between hi hq] at hu
    obtain rfl := Host.Outcome.next.inj hu
    rw [step_running (s := (beginOp _ _ s).giveAnswers bs) hr, resume_beginOp _ _ s hr hbs]
    exact (exec_between (s := s.giveAnswers bs) hi hq).symm

/-! ### Reset -/

/-- Settles O9: the fields are the reset state's own. -/
theorem resetValues : Obligations.ResetValues := ⟨rfl, rfl, rfl, rfl, rfl⟩

/-! ### INIT at the expander -/

theorem Expander.run_cons (cfg : Config) (e : Expander) (t : Tx) (ts : List Tx) :
    e.run cfg (t :: ts) = (e.apply cfg t).run cfg ts := rfl

/-- R95: INIT's first write reaches IOCON in bank 1 and OLATB in bank 0; IOCON is 0x00 after it. -/
theorem init_first_write {e : Expander} (h : e.iocon = 0x00 ∨ e.iocon = 0xA0) :
    (e.apply Config.default (.wr .ioconB1 [0x00])).iocon = 0x00 := by
  obtain h | h := h <;>
    simp [Expander.apply, Reg.addr, Config.default, Expander.writeByte, Expander.advance, registerAt, ioconBank, ioconSeqop, h,
      bank0Map, bank1MapB, Expander.store]

/-- R35, R93: from IOCON 0x00 the block write and the last write give every register its value. -/
theorem init_block_and_run {e : Expander} (h : e.iocon = 0x00) :
    e.run Config.default [.wr .initBase Config.default.initBlock, .wr .ioconB0 [Config.default.ioconRun]] =
      { iodira := 0x3F, iodirb := 0x02, ipola := 0x3F, ipolb := 0x00, gpintena := 0x00, gpintenb := 0x00, defvala := 0x00,
        defvalb := 0x00, intcona := 0x00, intconb := 0x00, iocon := 0xA0, gppua := 0x3F, gppub := 0x00, olata := 0x00,
        olatb := 0x00, pointer := 0x0A } := by
  simp [Expander.run, Expander.apply, Reg.addr, Config.default, initBlockOf, Expander.writeByte, Expander.advance, registerAt,
    ioconBank, ioconSeqop, h, bank0Map, Expander.store]

/-- Settles O15: after the first write the expander is in bank 0 with sequential addressing, whichever mode it was in. -/
theorem initConfiguresTheExpander : Obligations.InitConfiguresTheExpander := by
  intro e h e'
  have he := init_block_and_run (init_first_write h)
  rw [← Expander.run_cons] at he
  rw [show e' = _ from he]
  decide

end Sys2Proof.Machine

namespace Sys2Proof.Machine

/-! ### Where results go -/

/-- The results that are not of this port. -/
def otherResults : Port → State → List OpResult
  | .host, s => s.events
  | .timer, s => s.results

@[simp] theorem otherResults_complete (p : Port) (r : OpResult) (s : State) :
    otherResults p (complete p r s) = otherResults p s := by cases p <;> rfl

/-- An operation of port `p` has left the other port's results at `os`, and any operation in progress is of port `p`. -/
def OtherKept (p : Port) (os : List OpResult) (s : State) : Prop :=
  otherResults p s = os ∧ ∀ r, s.seq = .running r → r.port = p

theorem complete_otherKept {p : Port} {os : List OpResult} {s : State} (r : OpResult) (h : otherResults p s = os) :
    OtherKept p os (complete p r s) := ⟨by simp [h], by simp⟩

theorem proceed_otherKept {p : Port} {os : List OpResult} : ∀ (ls : List Line) (n : Nat) (acts : List Act) (s : State),
    otherResults p s = os → OtherKept p os (proceed p n acts ls s) := by
  have hemit : ∀ (n : Nat) (a : Act) (as : List Act) (ls : List Line) (s : State),
      otherResults p s = os → OtherKept p os (emit p n a as ls s) := by
    intro n a as ls s h
    refine ⟨by cases p <;> exact h, fun r hr => ?_⟩
    cases hr; rfl
  intro ls
  induction ls with
  | nil =>
    intro n acts s h
    cases acts with
    | nil => exact complete_otherKept _ h
    | cons a as => exact hemit n a as [] s h
  | cons l ls ih =>
    intro n acts s h
    cases acts with
    | cons a as => exact hemit n a as _ s h
    | nil =>
      have hblk : ∀ b, otherResults p { s with block := b } = os := fun b => by cases p <;> exact h
      rw [proceed_line]
      split
      · exact ih n _ _ (hblk _)
      · exact complete_otherKept _ (hblk _)
      · exact complete_otherKept _ (hblk _)

theorem answer_otherKept {p : Port} {os : List OpResult} (a : Answer) {r : Running} {s : State} (h : OtherKept p os s)
    (hq : s.seq = .running r) : OtherKept p os (answer a r s) := by
  obtain ⟨h, hp⟩ := h
  obtain rfl := hp r hq
  have hblk : ∀ b, otherResults r.port { s with block := b } = os := fun b => by rw [← h]; cases r.port <;> rfl
  cases a with
  | error => exact complete_otherKept _ (hblk _)
  | ok d =>
    simp only [answer]
    split
    · exact proceed_otherKept _ _ _ _ (hblk _)
    · exact complete_otherKept _ (hblk _)
    · exact complete_otherKept _ (hblk _)

/-- R134, R138 (d): an operation gives its result to its own port alone. -/
theorem beginOp_otherResults (p : Port) (body : List Line) (s : State) :
    otherResults p (beginOp p body s) = otherResults p s := by
  have henv : ∀ (t : State) (e : List Answer), OtherKept p (otherResults p s) t →
      OtherKept p (otherResults p s) { t with env := e } := by
    rintro t e ⟨ht, hp⟩
    exact ⟨by rw [← ht]; cases p <;> rfl, hp⟩
  exact (drain_induction (P := OtherKept p (otherResults p s)) (fun a _ _ h hq => answer_otherKept a h hq) henv s.env _
    (proceed_otherKept body 0 [] _ (by cases p <;> rfl))).1

/-! ### What the LCD operations leave -/

/-- R66: the poll's high byte leaves the blue bit too. -/
theorem pollHi_blue {cfg : Config} (h : cfg.wf = true) (b : Block) :
    pollHi cfg b &&& cfg.pinBlue = b.portb &&& cfg.pinBlue := by
  obtain ⟨-, -, ⟨-, -, -, -, hb⟩, -⟩ := wf_disjoint h
  rw [pollHi, BitVec.and_comm, BitVec.and_or_distrib_left, BitVec.and_comm _ cfg.pinE, hb, BitVec.and_comm, pollLo_blue h]
  exact BitVec.or_zero

/-- The port B byte `v` has the blue bit of `b`. -/
def sameBlue (cfg : Config) (b : Block) (v : Byte) : Prop := cfg.wf = true → v &&& cfg.pinBlue = b.portb &&& cfg.pinBlue

/-- The direction byte `v` has every bit of `b`'s but D7's. -/
def sameDirections (cfg : Config) (b : Block) (v : Byte) : Prop := v &&& ~~~cfg.ddrbD7Dir = b.ddrb &&& ~~~cfg.ddrbD7Dir

/-- What an LCD operation leaves of the block it began with. -/
structure LcdFrame (cfg : Config) (b c : Block) : Prop where
  porta : c.porta = b.porta
  ready : c.ready = b.ready
  notifier : c.notifier = b.notifier
  prevMask : c.prevMask = b.prevMask
  ddrb : sameDirections cfg b c.ddrb
  stale : b.stale = true → c.stale = true
  blue : sameBlue cfg b c.portb

/-- The bus steps of an LCD operation, and that their bytes keep the blue bit and the directions of `b`. -/
def lcdAct (cfg : Config) (b : Block) : Act → Prop
  | .sendFrames bs => bs ≠ [] ∧ sameBlue cfg b (bs.getLastD 0)
  | .setDirectionB v => sameDirections cfg b v
  | .pollSetup lo hi => sameBlue cfg b lo ∧ sameBlue cfg b hi
  | .pollStrobeHi lo hi _ => sameBlue cfg b lo ∧ sameBlue cfg b hi
  | .pollRead lo hi _ => sameBlue cfg b lo ∧ sameBlue cfg b hi
  | .pollStrobeRest lo hi _ _ => sameBlue cfg b lo ∧ sameBlue cfg b hi
  | .pollExit v => sameDirections cfg b v
  | _ => False

/-- The lines of the LCD operations. -/
def isLcdLine : Line → Bool
  | .requireReady => true
  | .prologue => true
  | .emitByte _ _ => true
  | .emitSeq _ _ => true
  | .slowStep _ => true
  | .requirePattern _ => true
  | .requireSlot _ => true
  | _ => false

theorem bodyOf_isLcdLine (cfg : Config) {i : Instr} (h : i.isLcd = true) : ∀ l ∈ bodyOf cfg i, isLcdLine l = true := by
  have htext : ∀ c t, ∀ l ∈ textBody cfg c t, isLcdLine l = true := by
    intro c t
    simp only [textBody]
    generalize splitLines cfg.lineSep t = lines
    rcases lines with _ | ⟨l0, _ | ⟨l1, _⟩⟩ <;> cases c <;> simp [textLines, instrBody, seqBody, isLcdLine]
  cases i
  case text t => exact htext false t
  case textc t => exact htext true t
  case createchar => simp [bodyOf, createcharBody, instrBody, seqBody, isLcdLine]
  case data => simp [bodyOf, dataBody, isLcdLine]
  all_goals simp_all [Instr.isLcd, bodyOf, instrBody, seqBody, isLcdLine]

section
variable {cfg : Config} {b c : Block}

/-- Writes of port B and of the directions that `lcdAct` allows keep the frame. -/
theorem LcdFrame.setPortB (h : LcdFrame cfg b c) {v : Byte} (hv : sameBlue cfg b v) : LcdFrame cfg b { c with portb := v } :=
  ⟨h.porta, h.ready, h.notifier, h.prevMask, h.ddrb, h.stale, hv⟩

theorem LcdFrame.setDirectionB (h : LcdFrame cfg b c) {v : Byte} (hv : sameDirections cfg b v) :
    LcdFrame cfg b { c with ddrb := v } :=
  ⟨h.porta, h.ready, h.notifier, h.prevMask, hv, h.stale, h.blue⟩

theorem LcdFrame.setStale (h : LcdFrame cfg b c) : LcdFrame cfg b { c with stale := true } :=
  ⟨h.porta, h.ready, h.notifier, h.prevMask, h.ddrb, fun _ => rfl, h.blue⟩

/-- R65: a frame keeps the blue bit. -/
theorem LcdFrame.frame_lcdAct (h : LcdFrame cfg b c) (rs : Bool) (pre : List Byte) (v : Byte) :
    lcdAct cfg b (.sendFrames (pre ++ frame cfg (base cfg c rs) v)) := by
  refine ⟨by simp [frame], fun hwf => ?_⟩
  rw [frame_getLastD, base_flip_blue hwf]
  exact h.blue hwf

/-- R66: so does a poll. -/
theorem LcdFrame.poll_sameBlue (h : LcdFrame cfg b c) : sameBlue cfg b (pollLo cfg c) ∧ sameBlue cfg b (pollHi cfg c) :=
  ⟨fun hwf => (pollLo_blue hwf c).trans (h.blue hwf), fun hwf => (pollHi_blue hwf c).trans (h.blue hwf)⟩

end

/-- Every line and bus step of an LCD operation keeps the frame. -/
theorem lcdFrame_keeps (cfg : Config) (b : Block) :
    Keeps cfg (fun c _ acts ls => LcdFrame cfg b c ∧ (∀ a ∈ acts, lcdAct cfg b a) ∧ ∀ l ∈ ls, isLcdLine l = true)
      (fun c _ => LcdFrame cfg b c) where
  line := by
    rintro c tr l ls ⟨h, -, hlines⟩
    obtain ⟨hl, hls⟩ := List.forall_mem_cons.1 hlines
    have hgo : LcdFrame cfg b c ∧ (∀ a ∈ ([] : List Act), lcdAct cfg b a) ∧ ∀ l ∈ ls, isLcdLine l = true := ⟨h, nofun, hls⟩
    cases l
    case requireReady => exact (meets_requireReady _ _ _).2 ⟨fun _ => hgo, fun _ => h⟩
    case prologue =>
      refine (meets_lcdPrologue _ _ _ _).2 ⟨fun _ _ => ⟨h, List.forall_mem_singleton.2 h.poll_sameBlue, hls⟩, fun _ _ => hgo,
        fun _ => h⟩
    case emitByte rs v => exact ⟨h, List.forall_mem_singleton.2 (h.frame_lcdAct rs [] v), hls⟩
    case emitSeq rs vs =>
      refine ⟨h, fun a ha => ?_, hls⟩
      obtain ⟨wr, hwr, rfl⟩ := List.mem_map.1 ha
      obtain ⟨pre, v, rfl⟩ := batchesFrom_ends cfg _ vs [] wr hwr
      exact h.frame_lcdAct rs pre v
    case slowStep x =>
      refine ⟨h, ?_, hls⟩
      split
      · exact List.forall_mem_singleton.2 ((or_and_not_self _ _).trans h.ddrb)
      · nofun
    case requirePattern => exact (meets_requirePattern _ _ _ _).2 ⟨fun _ => hgo, fun _ => h⟩
    case requireSlot => exact (meets_requireSlot _ _ _ _ _).2 ⟨fun _ => hgo, fun _ => h⟩
    all_goals simp [isLcdLine] at hl
  stop := fun ⟨h, _⟩ => h
  act := by
    rintro c tr a as ls d ⟨h, hacts, hls⟩
    obtain ⟨ha, has⟩ := List.forall_mem_cons.1 hacts
    have hcons : ∀ {x : Act}, lcdAct cfg b x → ∀ y ∈ [x] ++ as, lcdAct cfg b y :=
      fun hx => List.forall_mem_cons.2 ⟨hx, has⟩
    cases a
    case sendFrames bs =>
      refine ⟨h.setPortB ?_, has, hls⟩
      rw [getLastD_of_ne_nil ha.1 _ 0]; exact ha.2
    case setDirectionB v => exact ⟨h.setDirectionB ha, has, hls⟩
    case pollSetup lo hi => exact ⟨h.setPortB ha.1, hcons (x := .pollStrobeHi lo hi 0) ha, hls⟩
    case pollStrobeHi lo hi n => exact ⟨h.setPortB ha.2, hcons (x := .pollRead lo hi n) ha, hls⟩
    case pollRead lo hi n => exact ⟨h, hcons (x := .pollStrobeRest lo hi n d) ha, hls⟩
    case pollStrobeRest lo hi n r =>
      have h' := h.setPortB ha.1
      refine (meets_pollDecide _ _ _ _ _ _ _ _).2 ⟨fun _ _ => h', fun _ _ => ⟨h', hcons (x := .pollStrobeHi lo hi (n + 1)) ha, hls⟩,
        fun _ => ⟨h', hcons (x := .pollExit _) ?_, hls⟩⟩
      exact (and_not_idem _ _).trans h.ddrb
    case pollExit v => exact ⟨h.setDirectionB ha, has, hls⟩
    all_goals exact ha.elim
  error := fun ⟨h, _⟩ => h.setStale

/-! ### Operations that never make D7 an input -/

/-- The directions are those of `b`, or those with D7 an output. -/
def d7Kept (cfg : Config) (b c : Block) : Prop := c.ddrb = b.ddrb ∨ c.ddrb = b.ddrb &&& ~~~cfg.ddrbD7Dir

/-- A bus step that does not make D7 an input. -/
def d7Act (cfg : Config) (b : Block) : Act → Prop
  | .setDirectionB _ => False
  | .pollExit v => v = b.ddrb &&& ~~~cfg.ddrbD7Dir
  | _ => True

/-- A line that does not make D7 an input. -/
def d7Line (cfg : Config) : Line → Prop
  | .slowStep x => isSlow cfg x = false
  | .finishInit => False
  | _ => True

theorem d7Kept_keeps (cfg : Config) (b : Block) :
    Keeps cfg (fun c _ acts ls => d7Kept cfg b c ∧ (∀ a ∈ acts, d7Act cfg b a) ∧ ∀ l ∈ ls, d7Line cfg l)
      (fun c _ => d7Kept cfg b c) where
  line := by
    rintro c tr l ls ⟨h, -, hlines⟩
    obtain ⟨hl, hls⟩ := List.forall_mem_cons.1 hlines
    have hgo : d7Kept cfg b c ∧ (∀ a ∈ ([] : List Act), d7Act cfg b a) ∧ ∀ l ∈ ls, d7Line cfg l := ⟨h, nofun, hls⟩
    cases l
    case requireReady => exact (meets_requireReady _ _ _).2 ⟨fun _ => hgo, fun _ => h⟩
    case prologue =>
      exact (meets_lcdPrologue _ _ _ _).2 ⟨fun _ _ => ⟨h, by simp [d7Act], hls⟩, fun _ _ => hgo, fun _ => h⟩
    case emitSeq => exact ⟨h, by simp [d7Act], hls⟩
    case slowStep x => rw [Line.perform, show isSlow cfg x = false from hl]; exact hgo
    case requirePattern => exact (meets_requirePattern _ _ _ _).2 ⟨fun _ => hgo, fun _ => h⟩
    case requireSlot => exact (meets_requireSlot _ _ _ _ _).2 ⟨fun _ => hgo, fun _ => h⟩
    case finishInit => exact hl.elim
    case tickGate => exact (meets_tickGate _ _ _ _).2 ⟨fun _ => hgo, fun _ => h⟩
    case ret => exact h
    all_goals exact ⟨h, by simp [d7Act], hls⟩
  stop := fun ⟨h, _⟩ => h
  act := by
    rintro c tr a as ls d ⟨h, hacts, hls⟩
    obtain ⟨ha, has⟩ := List.forall_mem_cons.1 hacts
    have hcons : ∀ {x : Act}, d7Act cfg b x → ∀ y ∈ [x] ++ as, d7Act cfg b y :=
      fun hx => List.forall_mem_cons.2 ⟨hx, has⟩
    cases a
    case setDirectionB => exact ha.elim
    case pollSetup lo hi => exact ⟨h, hcons (x := .pollStrobeHi lo hi 0) trivial, hls⟩
    case pollStrobeHi lo hi n => exact ⟨h, hcons (x := .pollRead lo hi n) trivial, hls⟩
    case pollRead lo hi n => exact ⟨h, hcons (x := .pollStrobeRest lo hi n d) trivial, hls⟩
    case pollStrobeRest lo hi n r =>
      refine (meets_pollDecide _ _ _ _ _ _ _ _).2 ⟨fun _ _ => h, fun _ _ => ⟨h, hcons (x := .pollStrobeHi lo hi (n + 1)) trivial, hls⟩,
        fun _ => ⟨h, hcons (x := .pollExit _) ?_, hls⟩⟩
      obtain h | h := h
      · exact congrArg (· &&& ~~~cfg.ddrbD7Dir) h
      · exact (congrArg (· &&& ~~~cfg.ddrbD7Dir) h).trans (and_not_idem _ _)
    case pollExit v => exact ⟨.inr ha, has, hls⟩
    case readButtons => exact h
    case readTick => exact h
    all_goals exact ⟨h, has, hls⟩
  error := fun ⟨h, _⟩ => h

/-- R107: the slow step is INSTR's alone, and only for a byte of the slow set. -/
theorem bodyOf_d7Line (cfg : Config) {i : Instr} {x : Byte} {xs : List Byte}
    (h : i = .data x ∨ i = .instrs xs ∨ i = .datas xs ∨ (i = .instr x ∧ isSlow cfg x = false)) :
    ∀ l ∈ bodyOf cfg i, d7Line cfg l := by
  obtain rfl | rfl | rfl | ⟨rfl, hx⟩ := h
  · simp [bodyOf, dataBody, d7Line]
  · simp [bodyOf, seqBody, d7Line]
  · simp [bodyOf, seqBody, d7Line]
  · simp [bodyOf, instrBody, d7Line, hx]

/-- Settles O48: the block by the two claims above, the rest by what every operation keeps. -/
theorem lcdOperationsFrame : Obligations.LcdOperationsFrame := by
  intro i s t hi hq ht
  have hne : i ≠ .lcdboot := by rintro rfl; simp [Instr.isLcd] at hi
  have hself := expand_eq_self hne
  have hframe : LcdFrame s.cfg s.block t.block :=
    ((lcdFrame_keeps s.cfg s.block).exec (i := i) rfl
      (by rw [hself]; exact fun hF => List.forall_mem_singleton.2 ⟨hF, nofun, bodyOf_isLcdLine s.cfg hi⟩)
      ((holds_between hq).2 ⟨rfl, rfl, rfl, rfl, rfl, id, fun _ => rfl⟩) ht).everywhere fun h => h.1
  have hd7 : ∀ x xs, i = .data x ∨ i = .instrs xs ∨ i = .datas xs ∨ (i = .instr x ∧ isSlow s.cfg x = false) →
      d7Kept s.cfg s.block t.block := fun x xs hx =>
    ((d7Kept_keeps s.cfg s.block).exec (i := i) rfl
      (by rw [hself]; exact fun hF => List.forall_mem_singleton.2 ⟨hF, nofun, bodyOf_d7Line s.cfg hx⟩)
      ((holds_between hq).2 (.inl rfl)) ht).everywhere fun h => h.1
  rw [exec_between hne hq] at ht
  obtain rfl := Host.Outcome.next.inj ht
  have hk := beginOp_kept (portOf i) (bodyOf s.cfg i) s
  have hport : portOf i = .host := by cases i <;> simp_all [portOf, Instr.isLcd]
  have hevents : (beginOp (portOf i) (bodyOf s.cfg i) s).events = s.events := by
    rw [hport]; exact beginOp_otherResults .host _ s
  exact ⟨hk.cfg, hframe.porta, hframe.ready, hframe.notifier, hframe.prevMask, hframe.ddrb, hframe.stale, hk.queued, hk.input,
    hk.offset, hk.draws, hevents, hframe.blue, hd7⟩

end Sys2Proof.Machine

namespace Sys2Proof.Machine

/-! ### The expander in the mode INIT leaves

In that mode the address pointer stays, and the registers an operation writes are where the configuration says (R37, R47). -/

theorem Expander.run_append (cfg : Config) (e : Expander) (ts us : List Tx) :
    e.run cfg (ts ++ us) = (e.run cfg ts).run cfg us := List.foldl_append

@[simp] theorem Expander.run_nil (cfg : Config) (e : Expander) : e.run cfg [] = e := rfl

/-- The expander with its pointer at GPIOB and `v` in port B's latch. -/
def Expander.latched (cfg : Config) (e : Expander) (v : Byte) : Expander := { e with pointer := cfg.regGpiob, olatb := v }

/-- The expander with its pointer at IODIRB and `v` in port B's directions. -/
def Expander.directed (cfg : Config) (e : Expander) (v : Byte) : Expander := { e with pointer := cfg.regIodirb, iodirb := v }

section
variable (cfg : Config) (e : Expander) (v : Byte)

@[simp] theorem directed_iodirb : (e.directed cfg v).iodirb = v := rfl
@[simp] theorem directed_olatb : (e.directed cfg v).olatb = e.olatb := rfl
@[simp] theorem directed_olata : (e.directed cfg v).olata = e.olata := rfl
@[simp] theorem latched_pointer : (e.latched cfg v).pointer = cfg.regGpiob := rfl
@[simp] theorem latched_olatb : (e.latched cfg v).olatb = v := rfl
@[simp] theorem latched_olata : (e.latched cfg v).olata = e.olata := rfl
@[simp] theorem latched_iodirb : (e.latched cfg v).iodirb = e.iodirb := rfl
@[simp] theorem latched_latched (w : Byte) : (e.latched cfg v).latched cfg w = e.latched cfg w := rfl

end

namespace Mapped
variable {cfg : Config} {e : Expander}

/-- The mode is IOCON's. -/
theorem of_iocon {e' : Expander} (h : Mapped cfg e) (hi : e'.iocon = e.iocon) : Mapped cfg e' := by
  obtain ⟨hb, hs, hregs⟩ := h
  exact ⟨by rw [hi]; exact hb, by rw [hi]; exact hs, hregs⟩

theorem latched (h : Mapped cfg e) (v : Byte) : Mapped cfg (e.latched cfg v) := h.of_iocon rfl

theorem directed (h : Mapped cfg e) (v : Byte) : Mapped cfg (e.directed cfg v) := h.of_iocon rfl

theorem advance_eq (h : Mapped cfg e) : e.advance = e := by simp [Expander.advance, h.2.1]

theorem writeByte_eq (h : Mapped cfg e) {r : ExpanderReg} {v : Byte} (hreg : registerAt true e.pointer = some r)
    (hi : (e.store v r).iocon = e.iocon) : e.writeByte v = e.store v r := by
  simp only [Expander.writeByte, h.1, hreg]
  exact (h.of_iocon hi).advance_eq

theorem writeByte_gpiob (h : Mapped cfg e) (hp : e.pointer = cfg.regGpiob) (v : Byte) :
    e.writeByte v = e.latched cfg v := by
  obtain ⟨-, -, -, -, hreg⟩ := id h
  rw [h.writeByte_eq (r := .gpiob) (v := v) (hp ▸ hreg) rfl, Expander.latched, ← hp]
  rfl

theorem writeByte_gpioa (h : Mapped cfg e) (hp : e.pointer = cfg.regGpioa) (v : Byte) :
    e.writeByte v = { e with olata := v } := by
  obtain ⟨-, -, hreg, -, -⟩ := id h
  exact h.writeByte_eq (v := v) (hp ▸ hreg) rfl

theorem writeByte_iodirb (h : Mapped cfg e) (hp : e.pointer = cfg.regIodirb) (v : Byte) :
    e.writeByte v = { e with iodirb := v } := by
  obtain ⟨-, -, -, hreg, -⟩ := id h
  exact h.writeByte_eq (v := v) (hp ▸ hreg) rfl

/-- R54: bytes to GPIOB go to port B's latch one after the other. -/
theorem foldl_writeByte_gpiob (h : Mapped cfg e) : ∀ (bs : List Byte) (v : Byte),
    bs.foldl Expander.writeByte (e.latched cfg v) = e.latched cfg (bs.getLastD v) := by
  intro bs
  induction bs with
  | nil => intro v; rfl
  | cons w bs ih =>
    intro v
    rw [List.foldl_cons, (h.latched v).writeByte_gpiob rfl, List.getLastD_cons, latched_latched, ih]

theorem apply_wr_gpiob (h : Mapped cfg e) (bs : List Byte) :
    e.apply cfg (.wr .gpiob bs) = e.latched cfg (bs.getLastD e.olatb) := foldl_writeByte_gpiob h bs e.olatb

theorem apply_wr_gpioa (h : Mapped cfg e) (v : Byte) :
    e.apply cfg (.wr .gpioa [v]) = { e with pointer := cfg.regGpioa, olata := v } :=
  writeByte_gpioa (e := { e with pointer := cfg.regGpioa }) (h.of_iocon rfl) rfl v

theorem apply_wr_iodirb (h : Mapped cfg e) (v : Byte) :
    e.apply cfg (.wr .iodirb [v]) = e.directed cfg v :=
  writeByte_iodirb (e := { e with pointer := cfg.regIodirb }) (h.of_iocon rfl) rfl v

theorem apply_rr (h : Mapped cfg e) (reg : Reg) : e.apply cfg (.rr reg) = { e with pointer := reg.addr cfg } :=
  (h.of_iocon (e' := { e with pointer := reg.addr cfg }) rfl).advance_eq

theorem apply_w1 (h : Mapped cfg e) (hp : e.pointer = cfg.regGpiob) (v : Byte) :
    e.apply cfg (.w1 v) = e.latched cfg v := h.writeByte_gpiob hp v

theorem apply_r0 (h : Mapped cfg e) : e.apply cfg .r0 = e := h.advance_eq

end Mapped

/-! ### The shadows follow the expander -/

/-- R98 (d): the expander is in the mode INIT leaves and holds what the shadows hold. -/
structure Follows (cfg : Config) (b : Block) (e : Expander) : Prop where
  mapped : Mapped cfg e
  porta : e.olata = b.porta
  portb : e.olatb = b.portb
  ddrb : e.iodirb = b.ddrb

/-- The bus step is no write of INIT, and the pointer is at GPIOB where the poll strobes with a bare write (R37, R101). -/
def actFollows (cfg : Config) (e : Expander) : Act → Prop
  | .busWR _ _ => False
  | .pollStrobeHi _ _ _ => e.pointer = cfg.regGpiob
  | _ => True

/-- The bus steps to come, of which only frames come in more than one. -/
def actsFollow (cfg : Config) (e : Expander) : List Act → Prop
  | [] => True
  | a :: as => actFollows cfg e a ∧ ∀ x ∈ as, isFrames x = true

/-- While no transaction has failed: the expander that received those answered since `tr₀` follows the shadows. -/
def followsSince (cfg : Config) (e : Expander) (tr₀ : List Tx) (b : Block) (tr : List Tx) (acts : List Act) : Prop :=
  b.stale = false → ∃ new, tr = tr₀ ++ new ++ awaited acts ∧ Follows cfg b (e.run cfg new) ∧ actsFollow cfg (e.run cfg new) acts

section
variable {cfg : Config} {e : Expander} {tr₀ tr : List Tx} {b c : Block}

theorem Follows.of_ports {e : Expander} (h : Follows cfg b e) (hpa : c.porta = b.porta) (hpb : c.portb = b.portb) (hd : c.ddrb = b.ddrb) :
    Follows cfg c e := ⟨h.mapped, h.porta.trans hpa.symm, h.portb.trans hpb.symm, h.ddrb.trans hd.symm⟩

/-- Frames may come at any time. -/
theorem actsFollow_frames {e : Expander} {as : List Act} (h : ∀ x ∈ as, isFrames x = true) : actsFollow cfg e as := by
  cases as with
  | nil => trivial
  | cons a as =>
    obtain ⟨ha, has⟩ := List.forall_mem_cons.1 h
    refine ⟨?_, has⟩
    cases a <;> simp_all [isFrames, actFollows]

/-- A line that leaves the shadows goes on with bus steps that follow the expander wherever its pointer is. -/
theorem followsSince.line (h : followsSince cfg e tr₀ b tr []) (hpa : c.porta = b.porta) (hpb : c.portb = b.portb)
    (hd : c.ddrb = b.ddrb) (hs : c.stale = b.stale) {acts : List Act} (hacts : ∀ e', actsFollow cfg e' acts) :
    followsSince cfg e tr₀ c (tr ++ awaited acts) acts := by
  intro hst
  obtain ⟨new, rfl, hf, -⟩ := h (hs ▸ hst)
  exact ⟨new, by simp, hf.of_ports hpa hpb hd, hacts _⟩

/-- A bus step answered ok takes the expander with it, and the operation goes on with `acts` and the steps it had. -/
theorem followsSince.answered {a : Act} {acts as : List Act} (h : followsSince cfg e tr₀ b tr (a :: as))
    (hs : c.stale = b.stale)
    (hstep : ∀ e', Follows cfg b e' → actFollows cfg e' a → (∀ x ∈ as, isFrames x = true) →
      Follows cfg c (e'.apply cfg a.tx) ∧ actsFollow cfg (e'.apply cfg a.tx) (acts ++ as)) :
    followsSince cfg e tr₀ c (tr ++ awaited (acts ++ as)) (acts ++ as) := by
  intro hst
  obtain ⟨new, rfl, hf, ha, has⟩ := h (hs ▸ hst)
  refine ⟨new ++ [a.tx], by simp, ?_⟩
  rw [Expander.run_append]
  exact hstep _ hf ha has

/-- Nothing more awaits an answer. -/
theorem followsSince.ended {a : Act} {as : List Act} (h : followsSince cfg e tr₀ b tr (a :: as)) (hs : c.stale = b.stale)
    (hstep : ∀ e', Follows cfg b e' → actFollows cfg e' a → Follows cfg c (e'.apply cfg a.tx)) :
    followsSince cfg e tr₀ c tr [] := by
  intro hst
  obtain ⟨new, rfl, hf, ha, -⟩ := h (hs ▸ hst)
  refine ⟨new ++ [a.tx], by simp, ?_, trivial⟩
  rw [Expander.run_append]
  exact hstep _ hf ha

/-- A WR to GPIOB leaves port B's latch where its shadow is then. -/
theorem Follows.wr_gpiob {e : Expander} (h : Follows cfg b e) (bs : List Byte) :
    Follows cfg (Machine.setPortB bs b) (e.apply cfg (.wr .gpiob bs)) := by
  rw [h.mapped.apply_wr_gpiob]
  exact ⟨h.mapped.latched _, h.porta, by rw [latched_olatb, setPortB_portb, h.portb], h.ddrb⟩

theorem Follows.wr_gpioa {e : Expander} (h : Follows cfg b e) (v : Byte) :
    Follows cfg { b with porta := v } (e.apply cfg (.wr .gpioa [v])) := by
  rw [h.mapped.apply_wr_gpioa]
  exact ⟨h.mapped.of_iocon rfl, rfl, h.portb, h.ddrb⟩

theorem Follows.wr_iodirb {e : Expander} (h : Follows cfg b e) (v : Byte) :
    Follows cfg { b with ddrb := v } (e.apply cfg (.wr .iodirb [v])) := by
  rw [h.mapped.apply_wr_iodirb]
  exact ⟨h.mapped.of_iocon rfl, h.porta, h.portb, rfl⟩

theorem Follows.rr {e : Expander} (h : Follows cfg b e) (reg : Reg) : Follows cfg b (e.apply cfg (.rr reg)) := by
  rw [h.mapped.apply_rr]
  exact ⟨h.mapped.of_iocon rfl, h.porta, h.portb, h.ddrb⟩

end

/-- A line of an operation other than INIT keeps what `followsSince` says. -/
theorem followsSince_line {cfg : Config} {e : Expander} {tr₀ tr : List Tx} {b : Block} {l : Line} (hl : isInitLine l = false)
    (h : followsSince cfg e tr₀ b tr []) :
    (l.perform cfg b).Meets (fun c acts => followsSince cfg e tr₀ c (tr ++ awaited acts) acts)
      (fun c => followsSince cfg e tr₀ c tr []) := by
  have hgo : followsSince cfg e tr₀ b (tr ++ awaited []) [] := by rw [awaited_nil, List.append_nil]; exact h
  have hemit : ∀ {acts : List Act}, (∀ e', actsFollow cfg e' acts) → followsSince cfg e tr₀ b (tr ++ awaited acts) acts :=
    fun hacts => h.line rfl rfl rfl rfl hacts
  cases l
  case requireReady => exact (meets_requireReady _ _ _).2 ⟨fun _ => hgo, fun _ => h⟩
  case prologue => exact (meets_lcdPrologue _ _ _ _).2 ⟨fun _ _ => hemit fun _ => ⟨trivial, nofun⟩, fun _ _ => hgo, fun _ => h⟩
  case emitSeq c vs =>
    refine hemit fun _ => actsFollow_frames fun x hx => ?_
    obtain ⟨wr, -, rfl⟩ := List.mem_map.1 hx
    rfl
  case slowStep x =>
    refine hemit fun _ => ?_
    split
    · exact ⟨trivial, nofun⟩
    · trivial
  case requirePattern => exact (meets_requirePattern _ _ _ _).2 ⟨fun _ => hgo, fun _ => h⟩
  case requireSlot => exact (meets_requireSlot _ _ _ _ _).2 ⟨fun _ => hgo, fun _ => h⟩
  case enterInit => simp [isInitLine] at hl
  case busWR => simp [isInitLine] at hl
  case finishInit => simp [isInitLine] at hl
  case tickGate => exact (meets_tickGate _ _ _ _).2 ⟨fun _ => hgo, fun _ => h⟩
  case close => exact h.line (c := { b with notifier := .closed }) (acts := []) rfl rfl rfl rfl fun _ => trivial
  case ret => exact h
  all_goals exact hemit fun _ => ⟨trivial, nofun⟩

/-- So does a bus step answered ok. -/
theorem followsSince_act {cfg : Config} {e : Expander} {tr₀ tr : List Tx} {b : Block} {a : Act} {as : List Act} (d : Byte)
    (h : followsSince cfg e tr₀ b tr (a :: as)) :
    (a.onOk cfg b d).Meets (fun c acts => followsSince cfg e tr₀ c (tr ++ awaited (acts ++ as)) (acts ++ as))
      (fun c => followsSince cfg e tr₀ c tr []) := by
  cases a
  case busWR => exact h.answered rfl fun e' _ ha _ => ha.elim
  case writeGpioA v => exact h.answered rfl fun e' hf _ has => ⟨hf.wr_gpioa v, actsFollow_frames has⟩
  case writeGpioB bs => exact h.answered rfl fun e' hf _ has => ⟨hf.wr_gpiob bs, actsFollow_frames has⟩
  case sendFrames bs => exact h.answered rfl fun e' hf _ has => ⟨hf.wr_gpiob bs, actsFollow_frames has⟩
  case setDirectionB v => exact h.answered rfl fun e' hf _ has => ⟨hf.wr_iodirb v, actsFollow_frames has⟩
  case pollSetup lo hi =>
    refine h.answered rfl fun e' hf _ has => ⟨hf.wr_gpiob [lo], ?_, has⟩
    exact congrArg Expander.pointer (hf.mapped.apply_wr_gpiob [lo])
  case pollStrobeHi lo hi n =>
    refine h.answered rfl fun e' hf (hp : e'.pointer = cfg.regGpiob) has => ⟨?_, trivial, has⟩
    rw [Act.tx, hf.mapped.apply_w1 hp]
    exact ⟨hf.mapped.of_iocon rfl, hf.porta, rfl, hf.ddrb⟩
  case pollRead lo hi n =>
    refine h.answered rfl fun e' hf _ has => ⟨?_, trivial, has⟩
    rw [Act.tx, hf.mapped.apply_r0]
    exact hf
  case pollStrobeRest lo hi n r =>
    simp only [Act.onOk, meets_pollDecide]
    refine ⟨fun _ _ => h.ended rfl fun e' hf _ => hf.wr_gpiob _, fun _ _ => ?_, fun _ => ?_⟩
    · refine h.answered rfl fun e' hf _ has => ⟨hf.wr_gpiob _, ?_, has⟩
      exact congrArg Expander.pointer (hf.mapped.apply_wr_gpiob _)
    · exact h.answered rfl fun e' hf _ has => ⟨hf.wr_gpiob _, trivial, has⟩
  case pollExit v => exact h.answered rfl fun e' hf _ has => ⟨hf.wr_iodirb v, actsFollow_frames has⟩
  case readButtons => exact h.ended rfl fun e' hf _ => hf.rr .gpioa
  case readTick => exact h.ended rfl fun e' hf _ => (hf.rr .gpioa).of_ports rfl rfl rfl

theorem followsSince_keeps (cfg : Config) (e : Expander) (tr₀ : List Tx) :
    Keeps cfg (fun b tr acts ls => followsSince cfg e tr₀ b tr acts ∧ ∀ l ∈ ls, isInitLine l = false)
      (fun b tr => followsSince cfg e tr₀ b tr []) where
  line := fun ⟨h, hlines⟩ => by
    obtain ⟨hl, hls⟩ := List.forall_mem_cons.1 hlines
    exact (followsSince_line hl h).imp (fun _ _ h => ⟨h, hls⟩) fun _ => id
  stop := fun ⟨h, _⟩ => h
  act := fun d ⟨h, hls⟩ => (followsSince_act d h).imp (fun _ _ h => ⟨h, hls⟩) fun _ => id
  error := fun _ hst => by simp at hst

/-- No operation but INIT has one of its lines. -/
theorem bodyOf_notInitLine (cfg : Config) {i : Instr} (h : i ≠ .init) : ∀ l ∈ bodyOf cfg i, isInitLine l = false := by
  have hlcd : ∀ {l : Line}, isLcdLine l = true → isInitLine l = false := by
    intro l hl; cases l <;> simp_all [isLcdLine, isInitLine]
  cases hi : i.isLcd with
  | true => exact fun l hl => hlcd (bodyOf_isLcdLine cfg hi l hl)
  | false => cases i <;> simp_all [Instr.isLcd, bodyOf, backlightBody, sampleBody, nameBody, tickBody, closeBody, isInitLine]

/-- R47: under the default configuration the registers are where the map of bank 1 has them. -/
theorem mapped_default {e : Expander} (hb : ioconBank e.iocon = true) (hs : ioconSeqop e.iocon = true) :
    Mapped Config.default e := ⟨hb, hs, by decide, by decide, by decide⟩

/-- Settles O58: each transaction answered ok moves the expander as it moves the shadows, and a failed one sets stale. -/
theorem shadowsFollowTheExpander : Obligations.ShadowsFollowTheExpander := by
  rintro i s t e hcfg hi hq - - ⟨hbank, hseqop, hpa, hpb, hd⟩ ht hq' hst
  have hstart : Follows s.cfg s.block e := ⟨hcfg ▸ mapped_default hbank hseqop, hpa, hpb, hd⟩
  have hend := (followsSince_keeps s.cfg e s.trace).exec (i := i) rfl
    (fun hF j hj => ⟨hF, bodyOf_notInitLine s.cfg (ne_init_of_mem_expand hj hi)⟩)
    ((holds_between hq).2 fun _ => ⟨[], by simp, hstart, trivial⟩) ht
  obtain ⟨new, hnew, hf, -⟩ := (holds_between hq').1 hend hst
  exact ⟨new, by simpa using hnew, hf.mapped.1, hf.mapped.2.1, hf.porta, hf.portb, hf.ddrb⟩

end Sys2Proof.Machine

namespace Sys2Proof.Machine

/-! ### Port B's latch and the strobes

The strobes of transactions are those of the bytes that reach port B's latch. -/

/-- The strobes made as bytes reach port B's latch one after the other, while the directions are `dirs`. -/
def latchStrobes (cfg : Config) (dirs : Byte) : Byte → List Byte → List Strobe
  | _, [] => []
  | old, v :: vs =>
    (if anyBit old cfg.pinE && !anyBit v cfg.pinE then [edgeStrobe cfg old v dirs] else []) ++ latchStrobes cfg dirs v vs

theorem latchStrobes_append (cfg : Config) (dirs : Byte) (ys : List Byte) : ∀ (xs : List Byte) (old : Byte),
    latchStrobes cfg dirs old (xs ++ ys) = latchStrobes cfg dirs old xs ++ latchStrobes cfg dirs (xs.getLastD old) ys := by
  intro xs
  induction xs with
  | nil => intro old; rfl
  | cons v xs ih => intro old; simp only [List.cons_append, latchStrobes, ih, List.append_assoc, List.getLastD_cons]

section
variable {cfg : Config} {e : Expander}

/-- What comes after an expander's state looks at port B's latch of that state alone. -/
theorem strobesFrom_congr {e' : Expander} (h : e'.olatb = e.olatb) (es : List Expander) :
    strobesFrom cfg e' es = strobesFrom cfg e es := by
  cases es with
  | nil => rfl
  | cons x xs => simp only [strobesFrom, h]

theorem strobesFrom_writeAll (h : Mapped cfg e) (rest : List Expander) : ∀ (bs : List Byte) (v : Byte),
    strobesFrom cfg (e.latched cfg v) ((e.latched cfg v).writeAll bs ++ rest) =
      latchStrobes cfg e.iodirb v bs ++ strobesFrom cfg (e.latched cfg (bs.getLastD v)) rest := by
  intro bs
  induction bs with
  | nil => intro v; rfl
  | cons w bs ih =>
    intro v
    rw [Expander.writeAll, (h.latched v).writeByte_gpiob rfl, latched_latched, List.cons_append, strobesFrom, ih w, latchStrobes,
      List.append_assoc, List.getLastD_cons]
    rfl

/-- R54: a WR to GPIOB makes the strobes of its bytes. -/
theorem strobes_wr_gpiob (h : Mapped cfg e) (bs : List Byte) (ts : List Tx) :
    strobes cfg e (.wr .gpiob bs :: ts) =
      latchStrobes cfg e.iodirb e.olatb bs ++ strobes cfg (e.latched cfg (bs.getLastD e.olatb)) ts := by
  rw [strobes, Expander.history, h.apply_wr_gpiob, ← strobesFrom_congr (e := e) (e' := e.latched cfg e.olatb) rfl]
  exact strobesFrom_writeAll h _ bs e.olatb

/-- R44: a bare write goes to the register the pointer is at. -/
theorem strobes_w1 (h : Mapped cfg e) (hp : e.pointer = cfg.regGpiob) (v : Byte) (ts : List Tx) :
    strobes cfg e (.w1 v :: ts) = latchStrobes cfg e.iodirb e.olatb [v] ++ strobes cfg (e.latched cfg v) ts := by
  rw [strobes, Expander.history, h.apply_w1 hp, Expander.during, h.writeByte_gpiob hp]
  simp [strobesFrom, latchStrobes, strobes]

theorem strobes_r0 (h : Mapped cfg e) (ts : List Tx) : strobes cfg e (.r0 :: ts) = strobes cfg e ts := by
  rw [strobes, Expander.history, h.apply_r0]; rfl

/-- A direction write makes no strobe. -/
theorem strobes_wr_iodirb (h : Mapped cfg e) (v : Byte) (ts : List Tx) :
    strobes cfg e (.wr .iodirb [v] :: ts) = strobes cfg (e.directed cfg v) ts := by
  have hduring : e.during cfg (.wr .iodirb [v]) = [e.directed cfg v] :=
    congrArg (fun x => [x]) (h.apply_wr_iodirb v)
  rw [strobes, Expander.history, h.apply_wr_iodirb, hduring]
  simp [strobesFrom, strobes]

/-- R106: the strobes of batches are those of their bytes, wherever the frames are cut. -/
theorem strobes_frames : ∀ (wrs : List (List Byte)) {e : Expander}, Mapped cfg e →
    strobes cfg e (wrs.map frameTx) = latchStrobes cfg e.iodirb e.olatb wrs.flatten := by
  intro wrs
  induction wrs with
  | nil => intros; rfl
  | cons bs wrs ih =>
    intro e h
    rw [List.map_cons, frameTx, strobes_wr_gpiob h, ih (h.latched _), List.flatten_cons, latchStrobes_append]
    rfl

end

theorem batchesFrom_flatten (cfg : Config) (m : Byte) : ∀ (v : Byte) (vs buf : List Byte),
    (batchesFrom cfg (v :: vs) buf m).flatten = buf ++ (v :: vs).flatMap (frame cfg m) := by
  intro v vs
  induction vs generalizing v with
  | nil => intro buf; simp [batchesFrom]
  | cons w vs ih =>
    intro buf
    rw [batchesFrom]
    split
    · simp [ih]
    · rw [ih]; simp

/-- R106: the batches are the frames of the sequence in order. -/
theorem batches_flatten (cfg : Config) (m : Byte) (vs : List Byte) : (batches cfg m vs).flatten = vs.flatMap (frame cfg m) := by
  cases vs with
  | nil => rfl
  | cons v vs => exact batchesFrom_flatten cfg m v vs []

/-! ### The lines of port B -/

theorem anyBit_eq_false_iff {a m : Byte} : anyBit a m = false ↔ a &&& m = 0 := by simp [anyBit]

theorem anyBit_or (a b m : Byte) : anyBit (a ||| b) m = (anyBit a m || anyBit b m) := by
  have h : (a ||| b) &&& m = (a &&& m) ||| (b &&& m) := by
    rw [BitVec.and_comm, BitVec.and_or_distrib_left, BitVec.and_comm m a, BitVec.and_comm m b]
  rw [Bool.eq_iff_iff]
  simp only [anyBit, h, bne_iff_ne, ne_eq, Bool.or_eq_true, ← not_and_or]
  exact not_congr BitVec.or_eq_zero_iff

theorem anyBit_maskIf (c : Bool) (p m : Byte) : anyBit (maskIf c p) m = (c && anyBit p m) := by
  cases c <;> simp [maskIf, anyBit]

theorem anyBit_and_mask {a p m : Byte} (h : anyBit p m = false) : anyBit (a &&& p) m = false :=
  anyBit_eq_false_iff.2 (and_zero_of_and (anyBit_eq_false_iff.1 h))

/-- A direction byte in which D7 alone may be set. -/
theorem anyBit_dirs {cfg : Config} {dirs m : Byte} (hd : dirs &&& ~~~cfg.pinD7 = 0) (hm : anyBit cfg.pinD7 m = false) :
    anyBit dirs m = false := by
  have hdirs : dirs = dirs &&& cfg.pinD7 := by
    have : dirs = (dirs &&& cfg.pinD7) ||| (dirs &&& ~~~cfg.pinD7) := by
      ext i hi
      simp only [BitVec.getElem_and, BitVec.getElem_or, BitVec.getElem_not]
      cases dirs[i] <;> cases cfg.pinD7[i] <;> rfl
    rw [hd] at this
    exact this.trans BitVec.or_zero
  rw [hdirs]
  exact anyBit_and_mask hm

/-- R10 (a): each pin has its own line of port B. -/
theorem wf_anyBit {cfg : Config} (h : cfg.wf = true) :
    (∀ m ∈ cfg.portbMasks, anyBit m m = true) ∧
      cfg.portbMasks.Pairwise fun a b => anyBit a b = false ∧ anyBit b a = false := by
  obtain ⟨hsingle, hdisjoint⟩ := wf_pins h
  refine ⟨fun m hm => ?_, hdisjoint.imp fun hab => ⟨anyBit_eq_false_iff.2 hab, anyBit_eq_false_iff.2 (and_eq_zero_comm hab)⟩⟩
  have := hsingle m hm
  simp only [singleBit, Bool.and_eq_true] at this
  simpa [anyBit] using this.1

/-- R63 to R65: the lines of a frame's byte with E low: RS, R/W, the four data lines and E. -/
theorem frame_lines {cfg : Config} (h : cfg.wf = true) (blk : Block) (c : Bool) (n : BitVec 4) :
    (anyBit (base cfg blk c ||| flipTable cfg n) cfg.pinRS = c ∧ anyBit (base cfg blk c ||| flipTable cfg n) cfg.pinRW = false ∧
      anyBit (base cfg blk c ||| flipTable cfg n) cfg.pinE = false) ∧
    anyBit (base cfg blk c ||| flipTable cfg n) cfg.pinD4 = n.getLsbD 0 ∧
    anyBit (base cfg blk c ||| flipTable cfg n) cfg.pinD5 = n.getLsbD 1 ∧
    anyBit (base cfg blk c ||| flipTable cfg n) cfg.pinD6 = n.getLsbD 2 ∧
    anyBit (base cfg blk c ||| flipTable cfg n) cfg.pinD7 = n.getLsbD 3 := by
  obtain ⟨hself, hother⟩ := wf_anyBit h
  simp only [Config.portbMasks, List.pairwise_cons, List.mem_cons, List.not_mem_nil, forall_eq_or_imp, or_false] at hself hother
  simp_all [base, flipTable, anyBit_or, anyBit_maskIf, anyBit_and_mask]

/-- R66: the lines of the poll's low byte. -/
theorem pollLo_lines {cfg : Config} (h : cfg.wf = true) (blk : Block) :
    anyBit (pollLo cfg blk) cfg.pinRS = false ∧ anyBit (pollLo cfg blk) cfg.pinRW = true ∧
      anyBit (pollLo cfg blk) cfg.pinE = false := by
  obtain ⟨hself, hother⟩ := wf_anyBit h
  simp only [Config.portbMasks, List.pairwise_cons, List.mem_cons, List.not_mem_nil, forall_eq_or_imp, or_false] at hself hother
  simp_all [pollLo, anyBit_or, anyBit_and_mask]

/-- Raising E raises no other line. -/
theorem raiseE_lines {cfg : Config} (h : cfg.wf = true) (x : Byte) :
    anyBit (x ||| cfg.pinE) cfg.pinE = true ∧ anyBit (x ||| cfg.pinE) cfg.pinRS = anyBit x cfg.pinRS ∧
      anyBit (x ||| cfg.pinE) cfg.pinRW = anyBit x cfg.pinRW ∧ anyBit (x ||| cfg.pinE) cfg.pinD4 = anyBit x cfg.pinD4 ∧
      anyBit (x ||| cfg.pinE) cfg.pinD5 = anyBit x cfg.pinD5 ∧ anyBit (x ||| cfg.pinE) cfg.pinD6 = anyBit x cfg.pinD6 ∧
      anyBit (x ||| cfg.pinE) cfg.pinD7 = anyBit x cfg.pinD7 := by
  obtain ⟨hself, hother⟩ := wf_anyBit h
  simp only [Config.portbMasks, List.pairwise_cons, List.mem_cons, List.not_mem_nil, forall_eq_or_imp, or_false] at hself hother
  simp_all [anyBit_or]

theorem lineAtEdge_output {old new dirs pin : Byte} (h : anyBit old pin = anyBit new pin) (hd : anyBit dirs pin = false) :
    lineAtEdge old new dirs pin = anyBit new pin := if_pos ⟨h, hd⟩

/-! ### Strobes of frames and polls -/

/-- The two strobes of a byte's frame. -/
def frameStrobes (c : Bool) (v : Byte) : List Strobe := [.write c (highNibble v), .write c (lowNibble v)]

section
variable {cfg : Config} (h : cfg.wf = true) (blk : Block)
include h

/-- R22, R64: where every line is an output, the controller takes the nibble of a frame as E falls. -/
theorem edgeStrobe_frame {dirs : Byte} (hd : dirs = 0) (c : Bool) (n : BitVec 4) :
    edgeStrobe cfg ((base cfg blk c ||| flipTable cfg n) ||| cfg.pinE) (base cfg blk c ||| flipTable cfg n) dirs =
      .write c n := by
  obtain ⟨⟨hrs, hrw, -⟩, h4, h5, h6, h7⟩ := frame_lines h blk c n
  obtain ⟨-, krs, krw, k4, k5, k6, k7⟩ := raiseE_lines h (base cfg blk c ||| flipTable cfg n)
  have hout : ∀ m, anyBit dirs m = false := fun m => anyBit_eq_false_iff.2 (by rw [hd]; exact BitVec.zero_and)
  have hbits : ∀ n : BitVec 4, (((if n.getLsbD 0 then 1 else 0) ||| (if n.getLsbD 1 then 2 else 0) |||
      (if n.getLsbD 2 then 4 else 0) ||| (if n.getLsbD 3 then 8 else 0)) : BitVec 4) = n := by decide
  simp only [edgeStrobe, dataAtEdge, lineAtEdge_output krs (hout _), lineAtEdge_output krw (hout _), lineAtEdge_output k4 (hout _),
    lineAtEdge_output k5 (hout _), lineAtEdge_output k6 (hout _), lineAtEdge_output k7 (hout _), hrs, hrw, h4, h5, h6, h7, hbits]
  rfl

/-- A frame cut after k bytes has made k / 2 strobes (R171). -/
theorem latchStrobes_frame_take {dirs : Byte} (hd : dirs = 0) (c : Bool) (v old : Byte) {k : Nat} (hk : k ≤ 4) :
    latchStrobes cfg dirs old ((frame cfg (base cfg blk c) v).take k) = (frameStrobes c v).take (k / 2) := by
  have hlow : ∀ n, anyBit (base cfg blk c ||| flipTable cfg n) cfg.pinE = false := fun n => (frame_lines h blk c n).1.2.2
  have hhigh : ∀ x, anyBit (x ||| cfg.pinE) cfg.pinE = true := fun x => (raiseE_lines h x).1
  interval_cases k <;> simp [frame, latchStrobes, frameStrobes, hlow, hhigh, edgeStrobe_frame h blk hd]

/-- R64: the frames of a sequence make the strobes of its bytes, whatever port B held before. -/
theorem latchStrobes_frames {dirs : Byte} (hd : dirs = 0) (c : Bool) : ∀ (vs : List Byte) (old : Byte),
    latchStrobes cfg dirs old (vs.flatMap (frame cfg (base cfg blk c))) = vs.flatMap (frameStrobes c) := by
  intro vs
  induction vs with
  | nil => intro old; rfl
  | cons v vs ih =>
    intro old
    rw [List.flatMap_cons, latchStrobes_append, ih, List.flatMap_cons]
    exact congrArg (· ++ _) (latchStrobes_frame_take h blk hd c v old (k := 4) le_rfl)

/-- R106: the batches of a sequence make the strobes of its bytes. -/
theorem strobes_batches {e : Expander} (hm : Mapped cfg e) (hd : e.iodirb = 0) (c : Bool) (vs : List Byte) :
    strobes cfg e ((batches cfg (base cfg blk c) vs).map frameTx) = vs.flatMap (frameStrobes c) := by
  rw [strobes_frames _ hm, batches_flatten, latchStrobes_frames h blk hd]

/-- R101: as E falls in a poll, the controller takes a read of the status byte. -/
theorem edgeStrobe_poll {dirs : Byte} (hd : dirs &&& ~~~cfg.pinD7 = 0) :
    edgeStrobe cfg (pollHi cfg blk) (pollLo cfg blk) dirs = .read false := by
  obtain ⟨hrs, hrw, -⟩ := pollLo_lines h blk
  obtain ⟨-, krs, krw, -⟩ := raiseE_lines h (pollLo cfg blk)
  obtain ⟨⟨-, -, -, -, -, h7rs, -⟩, ⟨-, -, -, -, h7rw, -⟩, -⟩ := wf_disjoint h
  have hors := anyBit_dirs hd (anyBit_eq_false_iff.2 (and_eq_zero_comm h7rs))
  have horw := anyBit_dirs hd (anyBit_eq_false_iff.2 (and_eq_zero_comm h7rw))
  simp only [edgeStrobe, pollHi, lineAtEdge_output krs hors, lineAtEdge_output krw horw, hrs, hrw]
  rfl

/-- R101: each iteration of a poll is two read strobes. -/
theorem strobes_iterations {e : Expander} (hm : Mapped cfg e) (hd : e.iodirb &&& ~~~cfg.pinD7 = 0) (ts : List Tx) : ∀ n : Nat,
    strobes cfg (e.latched cfg (pollLo cfg blk))
        ((List.replicate n (iterTxs (pollLo cfg blk) (pollHi cfg blk))).flatten ++ ts) =
      List.replicate (2 * n) (.read false) ++ strobes cfg (e.latched cfg (pollLo cfg blk)) ts := by
  obtain ⟨-, -, hlow⟩ := pollLo_lines h blk
  have hhigh : anyBit (pollHi cfg blk) cfg.pinE = true := (raiseE_lines h (pollLo cfg blk)).1
  intro n
  induction n with
  | zero => rfl
  | succ n ih =>
    have hiter : ∀ us, strobes cfg (e.latched cfg (pollLo cfg blk)) (iterTxs (pollLo cfg blk) (pollHi cfg blk) ++ us) =
        .read false :: .read false :: strobes cfg (e.latched cfg (pollLo cfg blk)) us := by
      intro us
      rw [iterTxs, List.cons_append, strobes_w1 (hm.latched _) rfl, latched_latched, List.cons_append,
        strobes_r0 (hm.latched _), List.cons_append, strobes_wr_gpiob (hm.latched _)]
      simp [latchStrobes, hlow, hhigh, edgeStrobe_poll h blk hd]
    rw [List.replicate_succ, List.flatten_cons, List.append_assoc, hiter, ih]
    rfl

/-- R101, R171: a poll makes two read strobes an iteration, and one more first where port B was left with E high; the batches after it are sent
with every line an output. -/
theorem strobes_wholePoll {e : Expander} (hm : Mapped cfg e) (hd : e.iodirb &&& ~~~cfg.pinD7 = 0) (hdd : ddrbOk cfg blk.ddrb)
    (c : Bool) (vs : List Byte) (n : Nat) :
    strobes cfg e (wholePoll cfg blk n ++ (batches cfg (base cfg blk c) vs).map frameTx) =
      (if anyBit e.olatb cfg.pinE then [edgeStrobe cfg e.olatb (pollLo cfg blk) e.iodirb] else []) ++
        List.replicate (2 * n) (.read false) ++ vs.flatMap (frameStrobes c) := by
  obtain ⟨-, -, hlow⟩ := pollLo_lines h blk
  have hdd' : blk.ddrb &&& ~~~cfg.ddrbD7Dir = 0 := hdd
  rw [wholePoll, pollTxs_eq, List.append_assoc, List.cons_append, strobes_wr_gpiob hm, List.getLastD_cons, List.getLastD_nil,
    strobes_iterations h blk hm hd, List.cons_append, List.nil_append, hdd', strobes_wr_iodirb (hm.latched _),
    strobes_batches h blk ((hm.latched _).directed _) rfl]
  simp [latchStrobes, hlow]

end

/-! ### What the controller makes of the strobes -/

theorem pairStrobes_bytes (c : Bool) (vs : List Byte) :
    pairStrobes (vs.flatMap (frameStrobes c)) = vs.map fun v => { rs := c, val := v } := by
  have hnibbles : ∀ v : Byte, highNibble v ++ lowNibble v = v := by decide
  induction vs with
  | nil => rfl
  | cons v vs ih => simp [frameStrobes, pairStrobes, strobePair, hnibbles, ← ih]

/-- The controller receives nothing from the reads of a status byte. -/
theorem pairStrobes_reads (rs : Bool) (ss : List Strobe) : ∀ n : Nat,
    pairStrobes (List.replicate (2 * n) (.read rs) ++ ss) = pairStrobes ss := by
  intro n
  induction n with
  | zero => rfl
  | succ n ih =>
    rw [show 2 * (n + 1) = 2 * n + 1 + 1 from rfl, List.replicate_succ, List.replicate_succ]
    simp [pairStrobes, strobePair, ih]

/-- R171: from a first nibble that is a byte's low one, every byte is received one nibble off. -/
theorem pairStrobes_off (c : Bool) : ∀ (v : Byte) (vs : List Byte),
    pairStrobes (.write c (lowNibble v) :: vs.flatMap (frameStrobes c)) =
      (oneNibbleOff (v :: vs)).map fun w => { rs := c, val := w } := by
  intro v vs
  induction vs generalizing v with
  | nil => rfl
  | cons w vs ih => simp [frameStrobes, pairStrobes, strobePair, oneNibbleOff, ← ih]

/-- R171: after a strobe too many before a poll, the poll's last read is paired with the first nibble of the batches. -/
theorem pairStrobes_poll_off (first : Strobe) (c : Bool) (v : Byte) (rest : List Byte) {n : Nat} (hn : 1 ≤ n) :
    pairStrobes (first :: (List.replicate (2 * n) (.read false) ++ (v :: rest).flatMap (frameStrobes c))) =
      (strobePair first (.read false)).toList ++ (Config.mixedStrobes (.read false) (.write c (highNibble v))).toList ++
        (oneNibbleOff (v :: rest)).map fun w => { rs := c, val := w } := by
  obtain ⟨m, rfl⟩ : ∃ m, n = m + 1 := ⟨n - 1, by omega⟩
  rw [show 2 * (m + 1) = 2 * m + 1 + 1 from rfl, List.replicate_succ, List.replicate_succ']
  simp only [List.cons_append, List.append_assoc, List.nil_append, pairStrobes, pairStrobes_reads, List.flatMap_cons,
    frameStrobes]
  rw [← pairStrobes_off]
  rfl

/-- Settles O18: the strobes of the batches, cut or after a poll, and what the controller makes of them. -/
theorem controllerReceivesTheSequence : Obligations.ControllerReceivesTheSequence := by
  intro cfg blk c e vs hwf hm frames whole nibbles first
  refine ⟨fun hd => ⟨?_, fun v k hk => ?_⟩, fun hd hdd n => ?_⟩
  · rw [lcdReceives, strobes_batches hwf blk hm hd, pairStrobes_bytes]
  · have hcut : (frameTx (frame cfg (base cfg blk c) v)).reached (k + 1) =
        [.wr .gpiob ((frame cfg (base cfg blk c) v).take k)] := rfl
    rw [hcut, List.cons_append, List.nil_append, strobes_wr_gpiob hm, latchStrobes_frame_take hwf blk hd c v _ hk,
      strobes_batches hwf blk (hm.latched _) hd]
    rfl
  · have hpoll := strobes_wholePoll hwf blk hm hd hdd c vs n
    refine ⟨hpoll, fun he => ?_, fun v rest he hn hvs => ?_⟩
    · rw [lcdReceives, hpoll, he]
      exact (pairStrobes_reads false _ n).trans (pairStrobes_bytes c vs)
    · rw [lcdReceives, hpoll, he, hvs]
      exact pairStrobes_poll_off first c v rest hn

end Sys2Proof.Machine

namespace Sys2Proof.Machine

/-! ### The batches of a sequence -/

@[simp] theorem frame_length (cfg : Config) (m v : Byte) : (frame cfg m v).length = 4 := rfl

@[simp] theorem batchesFrom_nil (cfg : Config) (buf : List Byte) (m : Byte) : batchesFrom cfg [] buf m = [] := rfl

/-- R106: the buffer between two bytes of a sequence: whole frames, and fewer bytes than a batch. -/
def HasRoom (cfg : Config) (buf : List Byte) : Prop := buf.length % 4 = 0 ∧ buf.length < cfg.batchMax

section
variable {cfg : Config} (h : cfg.wf = true) (m : Byte)
include h

theorem hasRoom_nil : HasRoom cfg [] := by
  obtain ⟨hmin, -⟩ := wf_batchMax h
  exact ⟨rfl, by simp only [List.length_nil]; omega⟩

/-- R106: one more frame fits the buffer; with it the batch is sent, full or the last, or the buffer has room for another. -/
theorem batchesFrom_cons {buf : List Byte} (hroom : HasRoom cfg buf) (v : Byte) (vs : List Byte) :
    (buf ++ frame cfg m v).length % 4 = 0 ∧ (buf ++ frame cfg m v).length ≤ cfg.batchMax ∧
      ((vs = [] ∨ (buf ++ frame cfg m v).length = cfg.batchMax) ∧
          batchesFrom cfg (v :: vs) buf m = (buf ++ frame cfg m v) :: batchesFrom cfg vs [] m ∨
        vs ≠ [] ∧ HasRoom cfg (buf ++ frame cfg m v) ∧
          batchesFrom cfg (v :: vs) buf m = batchesFrom cfg vs (buf ++ frame cfg m v) m) := by
  obtain ⟨-, hmax⟩ := wf_batchMax h
  obtain ⟨hbuf, hlt⟩ := hroom
  have hlen : (buf ++ frame cfg m v).length = buf.length + 4 := by simp
  have hfour : (buf ++ frame cfg m v).length % 4 = 0 := by omega
  have hle : (buf ++ frame cfg m v).length ≤ cfg.batchMax := by omega
  refine ⟨hfour, hle, ?_⟩
  rw [batchesFrom]
  split
  · rename_i hsent
    exact .inl ⟨hsent.symm.imp_right fun hge => Nat.le_antisymm hle hge, rfl⟩
  · rename_i hkept
    obtain ⟨hmore, hvs⟩ := not_or.1 hkept
    exact .inr ⟨hvs, ⟨hfour, Nat.lt_of_not_le hmore⟩, rfl⟩

theorem batchesFrom_length : ∀ {vs buf : List Byte}, HasRoom cfg buf → ∀ wr ∈ batchesFrom cfg vs buf m,
    4 ≤ wr.length ∧ wr.length ≤ cfg.batchMax ∧ wr.length % 4 = 0 := by
  intro vs
  induction vs with
  | nil => exact fun _ => nofun
  | cons v vs ih =>
    intro buf hroom
    obtain ⟨hfour, hle, ⟨-, heq⟩ | ⟨-, hroom', heq⟩⟩ := batchesFrom_cons h m hroom v vs <;> rw [heq]
    · exact List.forall_mem_cons.2 ⟨⟨by simp, hle, hfour⟩, ih (hasRoom_nil h)⟩
    · exact ih hroom'

/-- R106: a batch that is not the last was sent because it was full. -/
theorem batchesFrom_dropLast_length : ∀ {vs buf : List Byte}, HasRoom cfg buf → ∀ wr ∈ (batchesFrom cfg vs buf m).dropLast,
    wr.length = cfg.batchMax := by
  intro vs
  induction vs with
  | nil => exact fun _ => nofun
  | cons v vs ih =>
    intro buf hroom
    obtain ⟨-, -, ⟨rfl | hfull, heq⟩ | ⟨-, hroom', heq⟩⟩ := batchesFrom_cons h m hroom v vs <;> rw [heq]
    · exact nofun
    · intro wr hwr
      rcases hrest : batchesFrom cfg vs [] m with _ | ⟨w, ws⟩
      · simp [hrest] at hwr
      · rw [hrest, List.dropLast_cons_cons, ← hrest] at hwr
        obtain rfl | hwr := List.mem_cons.1 hwr
        · exact hfull
        · exact ih (hasRoom_nil h) wr hwr
    · exact ih hroom'

/-- R106: eight frames to a batch of 32 bytes, those in the buffer among them. -/
theorem batchesFrom_count (hmax : cfg.batchMax = 32) : ∀ {v : Byte} {vs buf : List Byte}, HasRoom cfg buf →
    (batchesFrom cfg (v :: vs) buf m).length = (buf.length / 4 + (v :: vs).length + 7) / 8 := by
  intro v vs
  induction vs generalizing v with
  | nil =>
    intro buf hroom
    obtain ⟨-, -, ⟨-, heq⟩ | ⟨hvs, -⟩⟩ := batchesFrom_cons h m hroom v []
    · obtain ⟨-, hlt⟩ := hroom
      simp only [heq, batchesFrom_nil, List.length_cons, List.length_nil]
      omega
    · exact absurd rfl hvs
  | cons w vs ih =>
    intro buf hroom
    obtain ⟨-, -, ⟨hvs | hfull, heq⟩ | ⟨-, hroom', heq⟩⟩ := batchesFrom_cons h m hroom v (w :: vs)
    · simp at hvs
    · rw [heq, List.length_cons, ih (hasRoom_nil h)]
      simp only [List.length_append, frame_length, List.length_cons, List.length_nil] at hfull ⊢
      omega
    · rw [heq, ih hroom']
      simp only [List.length_append, frame_length, List.length_cons]
      omega

end

/-- Settles O19: the buffer of EmitSeq always holds whole frames and has room for one more. -/
theorem batchesCutTheFrames : Obligations.BatchesCutTheFrames := by
  intro cfg m vs hwf
  have hroom := hasRoom_nil hwf
  refine ⟨batches_flatten cfg m vs, batchesFrom_length hwf m hroom, batchesFrom_dropLast_length hwf m hroom, fun hmax => ?_⟩
  cases vs with
  | nil => rfl
  | cons v vs => exact (batchesFrom_count hwf m hmax hroom).trans (by simp)

end Sys2Proof.Machine

namespace Sys2Proof.Machine

/-! ### The transactions of an operation after INIT -/

/-- R41, R48, R52: the register and the length are ones that an operation after INIT may use. -/
def TxAllowed (cfg : Config) (x : Tx) : Prop :=
  (∃ b, x = .wr .gpioa [b]) ∨ (∃ b, x = .wr .iodirb [b]) ∨
    (∃ bs, x = .wr .gpiob bs ∧ 1 ≤ bs.length ∧ bs.length ≤ cfg.batchMax) ∨ (∃ b, x = .w1 b) ∨ x = .rr .gpioa ∨ x = .r0

/-- Every transaction since the trace `tr₀` is allowed. -/
def AllowedSince (cfg : Config) (tr₀ tr : List Tx) : Prop := ∃ new, tr = tr₀ ++ new ∧ ∀ x ∈ new, TxAllowed cfg x

/-- The bus steps have allowed transactions. -/
def ActsAllowed (cfg : Config) (acts : List Act) : Prop := ∀ a ∈ acts, TxAllowed cfg a.tx

section
variable {cfg : Config}

theorem txAllowed_wr_gpioa (b : Byte) : TxAllowed cfg (.wr .gpioa [b]) := .inl ⟨b, rfl⟩
theorem txAllowed_wr_iodirb (b : Byte) : TxAllowed cfg (.wr .iodirb [b]) := .inr (.inl ⟨b, rfl⟩)
theorem txAllowed_wr_gpiob {bs : List Byte} (hne : 1 ≤ bs.length) (hle : bs.length ≤ cfg.batchMax) :
    TxAllowed cfg (.wr .gpiob bs) := .inr (.inr (.inl ⟨bs, rfl, hne, hle⟩))
theorem txAllowed_w1 (b : Byte) : TxAllowed cfg (.w1 b) := .inr (.inr (.inr (.inl ⟨b, rfl⟩)))
theorem txAllowed_rr_gpioa : TxAllowed cfg (.rr .gpioa) := .inr (.inr (.inr (.inr (.inl rfl))))
theorem txAllowed_r0 : TxAllowed cfg .r0 := .inr (.inr (.inr (.inr (.inr rfl))))

theorem AllowedSince.refl (tr : List Tx) : AllowedSince cfg tr tr := ⟨[], by simp, nofun⟩

/-- The next transaction of allowed bus steps is allowed. -/
theorem AllowedSince.awaited {tr₀ tr : List Tx} (h : AllowedSince cfg tr₀ tr) {acts : List Act} (hacts : ActsAllowed cfg acts) :
    AllowedSince cfg tr₀ (tr ++ awaited acts) := by
  obtain ⟨new, rfl, hnew⟩ := h
  refine ⟨new ++ Machine.awaited acts, List.append_assoc _ _ _, List.forall_mem_append.2 ⟨hnew, ?_⟩⟩
  cases acts with
  | nil => nofun
  | cons a as => exact List.forall_mem_singleton.2 (List.forall_mem_cons.1 hacts).1

theorem actsAllowed_nil : ActsAllowed cfg [] := nofun

theorem actsAllowed_single {a : Act} (h : TxAllowed cfg a.tx) : ActsAllowed cfg [a] := List.forall_mem_singleton.2 h

end

section
variable {cfg : Config} (h : cfg.wf = true)
include h

/-- A WR to GPIOB of a poll or a frame, at most four bytes, fits a batch (R10 (d)). -/
theorem txAllowed_gpiob_short {bs : List Byte} (hne : 1 ≤ bs.length) (hle : bs.length ≤ 4) : TxAllowed cfg (.wr .gpiob bs) :=
  txAllowed_wr_gpiob hne (hle.trans (wf_batchMax h).1)

/-- R52, R106: the batches of a sequence are allowed. -/
theorem batches_actsAllowed (m : Byte) (vs : List Byte) : ActsAllowed cfg ((batches cfg m vs).map Act.sendFrames) := by
  intro a ha
  obtain ⟨wr, hwr, rfl⟩ := List.mem_map.1 ha
  obtain ⟨hmin, hmax, -⟩ := batchesFrom_length h m (hasRoom_nil h) wr hwr
  exact txAllowed_wr_gpiob (by omega) hmax

/-- The bus steps of a line that is not INIT's are allowed. -/
theorem perform_actsAllowed {l : Line} (hl : isInitLine l = false) (b : Block) :
    (l.perform cfg b).Meets (fun _ acts => ActsAllowed cfg acts) (fun _ => True) := by
  have hgo : ActsAllowed cfg [] := actsAllowed_nil
  cases l
  case requireReady => exact (meets_requireReady _ _ _).2 ⟨fun _ => hgo, fun _ => trivial⟩
  case prologue =>
    have hsetup : ActsAllowed cfg [.pollSetup (pollLo cfg b) (pollHi cfg b)] :=
      actsAllowed_single (txAllowed_gpiob_short h (by simp) (by simp))
    exact (meets_lcdPrologue _ _ _ _).2 ⟨fun _ _ => hsetup, fun _ _ => hgo, fun _ => trivial⟩
  case emitByte c v => exact actsAllowed_single (txAllowed_gpiob_short h (by simp) (by simp))
  case emitSeq c vs => exact batches_actsAllowed h _ vs
  case slowStep x =>
    simp only [Line.perform]
    split
    · exact actsAllowed_single (txAllowed_wr_iodirb _)
    · exact hgo
  case requirePattern => exact (meets_requirePattern _ _ _ _).2 ⟨fun _ => hgo, fun _ => trivial⟩
  case requireSlot => exact (meets_requireSlot _ _ _ _ _).2 ⟨fun _ => hgo, fun _ => trivial⟩
  case enterInit => simp [isInitLine] at hl
  case busWR => simp [isInitLine] at hl
  case finishInit => simp [isInitLine] at hl
  case colorA => exact actsAllowed_single (txAllowed_wr_gpioa _)
  case colorB => exact actsAllowed_single (txAllowed_gpiob_short h (by simp) (by simp))
  case sample => exact actsAllowed_single txAllowed_rr_gpioa
  case tickGate => exact (meets_tickGate _ _ _ _).2 ⟨fun _ => hgo, fun _ => trivial⟩
  case tickSample => exact actsAllowed_single txAllowed_rr_gpioa
  case close => exact hgo
  case ret => trivial

/-- So are those that an answered bus step leads to: the poll's. -/
theorem onOk_actsAllowed (a : Act) (b : Block) (d : Byte) :
    (a.onOk cfg b d).Meets (fun _ acts => ActsAllowed cfg acts) (fun _ => True) := by
  cases a
  case pollSetup => exact actsAllowed_single (txAllowed_w1 _)
  case pollStrobeHi => exact actsAllowed_single txAllowed_r0
  case pollRead => exact actsAllowed_single (txAllowed_gpiob_short h (by simp) (by simp))
  case pollStrobeRest =>
    exact (meets_pollDecide _ _ _ _ _ _ _ _).2 ⟨fun _ _ => trivial, fun _ _ => actsAllowed_single (txAllowed_w1 _),
      fun _ => actsAllowed_single (txAllowed_wr_iodirb _)⟩
  case readButtons => trivial
  case readTick => trivial
  all_goals exact actsAllowed_nil

/-- Every line that is not INIT's and every answer keeps it that all transactions since `tr₀` are allowed. -/
theorem allowedSince_keeps (tr₀ : List Tx) :
    Keeps cfg
      (fun _ tr acts ls => AllowedSince cfg tr₀ tr ∧ ActsAllowed cfg acts ∧ ∀ l ∈ ls, isInitLine l = false)
      (fun _ tr => AllowedSince cfg tr₀ tr) where
  line := by
    rintro b tr l ls ⟨htr, -, hlines⟩
    obtain ⟨hl, hls⟩ := List.forall_mem_cons.1 hlines
    exact (perform_actsAllowed h hl b).imp (fun _ _ hacts => ⟨htr.awaited hacts, hacts, hls⟩) fun _ _ => htr
  stop := fun ⟨htr, _⟩ => htr
  act := by
    rintro b tr a as ls d ⟨htr, hacts, hls⟩
    obtain ⟨-, has⟩ := List.forall_mem_cons.1 hacts
    refine (onOk_actsAllowed h a b d).imp (fun _ acts hnew => ?_) fun _ _ => htr
    have hall : ActsAllowed cfg (acts ++ as) := List.forall_mem_append.2 ⟨hnew, has⟩
    exact ⟨htr.awaited hall, hall, hls⟩
  error := fun ⟨htr, _⟩ => htr

end

/-- Settles O57: every line and every answer leads to allowed transactions only. -/
theorem transactionsAreWellFormed : Obligations.TransactionsAreWellFormed := by
  intro i s t hi hwf hq ht
  exact ((allowedSince_keeps hwf s.trace).exec (i := i) rfl
    (fun hF j hj => ⟨hF, actsAllowed_nil, bodyOf_notInitLine s.cfg (ne_init_of_mem_expand hj hi)⟩)
    ((holds_between hq).2 (.refl s.trace)) ht).everywhere fun ⟨htr, _⟩ => htr

end Sys2Proof.Machine

namespace Sys2Proof.Machine

/-! ### The outputs grow -/

/-- R54, R56, R150: the transactions, the results and the events of `s` stay, in order, in `t`. -/
structure OutputsGrow (s t : State) : Prop where
  trace : s.trace <+: t.trace
  results : s.results <+: t.results
  events : s.events <+: t.events

theorem Kept.outputsGrow {s t : State} (h : Kept s t) : OutputsGrow s t := ⟨h.trace, h.results, h.events⟩

theorem OutputsGrow.refl (s : State) : OutputsGrow s s := (Kept.refl s).outputsGrow

theorem OutputsGrow.trans {s t u : State} (h : OutputsGrow s t) (k : OutputsGrow t u) : OutputsGrow s u :=
  ⟨h.trace.trans k.trace, h.results.trans k.results, h.events.trans k.events⟩

theorem instrSequence_outputsGrow : ∀ (bs : List Byte) (s : State), OutputsGrow s (instrSequence bs s) := by
  intro bs
  induction bs with
  | nil => exact OutputsGrow.refl
  | cons b bs ih =>
    intro s
    have hfirst := (beginOp_kept .host (instrBody b) s).outputsGrow
    unfold instrSequence
    split
    · exact hfirst.trans (ih _)
    · exact ⟨hfirst.trace, hfirst.results, hfirst.events⟩

theorem exec_outputsGrow {i : Instr} {s t : State} (h : exec i s = .next t) : OutputsGrow s t := by
  cases hq : s.seq with
  | running r =>
    rw [exec_running hq] at h
    obtain rfl := Host.Outcome.next.inj h
    obtain ⟨htrace, hresults, hevents⟩ := OutputsGrow.refl s
    exact ⟨htrace, hresults, hevents⟩
  | between =>
    by_cases hi : i = .lcdboot
    · subst hi
      rw [exec_lcdboot_between hq] at h
      obtain rfl := Host.Outcome.next.inj h
      exact instrSequence_outputsGrow lcdbootBytes s
    · rw [exec_between hi hq] at h
      obtain rfl := Host.Outcome.next.inj h
      exact (beginOp_kept _ _ s).outputsGrow

theorem resume_outputsGrow (s : State) : OutputsGrow s (resume s) := by
  unfold resume
  split
  · have hk := drain_kept [Config.freeAnswer s.draws] { s with draws := s.draws + 1 }
    exact ⟨hk.trace, hk.results, hk.events⟩
  · rename_i a as _
    have hk := drain_kept (a :: as) { s with env := [] }
    exact ⟨hk.trace, hk.results, hk.events⟩

theorem step_outputsGrow {s t : State} (h : step s = .next t) : OutputsGrow s t := by
  obtain ⟨r, -, rfl⟩ | rfl | ⟨i, q, inp, off, -, hi⟩ := step_cases h
  · exact resume_outputsGrow s
  · exact .refl t
  · have hexec := exec_outputsGrow (s := { s with queued := q, input := inp, offset := off }) hi
    exact ⟨hexec.trace, hexec.results, hexec.events⟩

/-- Settles O59: each way a step can go keeps the outputs, and none writes the configuration. -/
theorem outputsOnlyGrow : Obligations.OutputsOnlyGrow := by
  intro s t h
  obtain ⟨htrace, hresults, hevents⟩ := step_outputsGrow h
  exact ⟨htrace, hresults, hevents, step_cfg h⟩

end Sys2Proof.Machine

namespace Sys2Proof

/-! ### Operands: what a reader of an encoding finds, of a cut one, and what it has read -/

theorem encodeBlob_eq (bs : List Byte) :
    encodeBlob bs = BitVec.ofNat 8 (bs.length / 256) :: BitVec.ofNat 8 (bs.length % 256) :: bs := rfl

theorem blobLenOk_iff {bs : List Byte} : blobLenOk bs = true ↔ bs.length < 65536 := by simp [blobLenOk]

theorem readBlob_encodeBlob (stop : Nat) {bs : List Byte} (h : blobLenOk bs = true) (rest : List Byte) :
    readBlob stop (encodeBlob bs ++ rest) = .ok (bs, rest) := by
  have hfits : bs.length ≤ (bs ++ rest).length := by simp
  simp only [encodeBlob_eq, List.cons_append, readBlob, Laws.EncodedLength.byte_toNat _ (blobLenOk_iff.1 h), if_pos hfits, List.take_left,
    List.drop_left]

theorem readOpBlob_encodeBlob (f : List Byte → Instr) (stop : Nat) {bs : List Byte} (h : blobLenOk bs = true) (rest : List Byte) :
    readOpBlob f stop (encodeBlob bs ++ rest) = .ok (f bs, rest) := by
  simp [readOpBlob, readBlob_encodeBlob stop h]

theorem readBlob_cut (stop : Nat) {bs : List Byte} (h : blobLenOk bs = true) {m : Nat} (hm : m < (encodeBlob bs).length) :
    readBlob stop ((encodeBlob bs).take m) = .error (.truncated stop) := by
  rw [Laws.EncodedLength.blob_length] at hm
  match m with
  | 0 => rfl
  | 1 => rfl
  | k + 2 =>
    have hshort : ¬ bs.length ≤ (bs.take k).length := by simp only [List.length_take]; omega
    simp only [encodeBlob_eq, List.take_succ_cons, readBlob, Laws.EncodedLength.byte_toNat _ (blobLenOk_iff.1 h), if_neg hshort]

theorem readOpBlob_cut (f : List Byte → Instr) (stop : Nat) {bs : List Byte} (h : blobLenOk bs = true) {m : Nat}
    (hm : m < (encodeBlob bs).length) : readOpBlob f stop ((encodeBlob bs).take m) = .error (.truncated stop) := by
  simp [readOpBlob, readBlob_cut stop h hm]

theorem readOpByte_cut (f : Byte → Instr) (stop : Nat) (b : Byte) {m : Nat} (hm : m < 1) :
    readOpByte f stop ([b].take m) = .error (.truncated stop) := by
  obtain rfl : m = 0 := by omega
  rfl

theorem readOpByteBlob_cut (f : Byte → List Byte → Instr) (stop : Nat) (b : Byte) {bs : List Byte} (h : blobLenOk bs = true)
    {m : Nat} (hm : m < (b :: encodeBlob bs).length) :
    readOpByteBlob f stop ((b :: encodeBlob bs).take m) = .error (.truncated stop) := by
  cases m with
  | zero => rfl
  | succ k => exact readOpBlob_cut (f b) stop h (Nat.lt_of_succ_lt_succ hm)

theorem readBlob_ok {stop : Nat} {bs x rest : List Byte} (h : readBlob stop bs = .ok (x, rest)) :
    blobLenOk x = true ∧ bs = encodeBlob x ++ rest := by
  match bs with
  | [] => simp [readBlob] at h
  | [_] => simp [readBlob] at h
  | hi :: lo :: tail =>
    simp only [readBlob] at h
    split at h
    · rename_i hle
      obtain ⟨rfl, rfl⟩ := Prod.mk.inj (Except.ok.inj h)
      have hlen : (tail.take (hi.toNat * 256 + lo.toNat)).length = hi.toNat * 256 + lo.toNat := by simpa using hle
      have hhi : (hi.toNat * 256 + lo.toNat) / 256 = hi.toNat := by omega
      have hlo : (hi.toNat * 256 + lo.toNat) % 256 = lo.toNat := by omega
      refine ⟨blobLenOk_iff.2 (by omega), ?_⟩
      simp [encodeBlob_eq, hlen, hhi, hlo, -List.length_take]
    · simp at h

theorem readOpByte_ok {f : Byte → Instr} {stop : Nat} {bs rest : List Byte} {i : Instr}
    (h : readOpByte f stop bs = .ok (i, rest)) : ∃ b, i = f b ∧ bs = b :: rest := by
  cases bs with
  | nil => simp [readOpByte, readByte] at h
  | cons b tail =>
    obtain ⟨rfl, rfl⟩ := Prod.mk.inj (Except.ok.inj h)
    exact ⟨b, rfl, rfl⟩

theorem readOpBlob_ok {f : List Byte → Instr} {stop : Nat} {bs rest : List Byte} {i : Instr}
    (h : readOpBlob f stop bs = .ok (i, rest)) : ∃ x, i = f x ∧ blobLenOk x = true ∧ bs = encodeBlob x ++ rest := by
  unfold readOpBlob at h
  split at h
  · rename_i x r hx
    obtain ⟨rfl, rfl⟩ := Prod.mk.inj (Except.ok.inj h)
    exact ⟨x, rfl, readBlob_ok hx⟩
  · simp at h

theorem readOpByteBlob_ok {f : Byte → List Byte → Instr} {stop : Nat} {bs rest : List Byte} {i : Instr}
    (h : readOpByteBlob f stop bs = .ok (i, rest)) :
    ∃ b x, i = f b x ∧ blobLenOk x = true ∧ bs = b :: (encodeBlob x ++ rest) := by
  cases bs with
  | nil => simp [readOpByteBlob, readByte] at h
  | cons b tail =>
    obtain ⟨x, hi, hx, rfl⟩ := readOpBlob_ok (f := f b) h
    exact ⟨b, x, hi, hx, rfl⟩

/-! ### One operation -/

/-- Settles O2: each operand is read from where its own encoding ends. -/
theorem operationRoundTrip : Obligations.OperationRoundTrip := by
  intro i offset rest hwf hcore
  cases i
  case instrs bs => exact readOpBlob_encodeBlob .instrs _ hwf rest
  case datas bs => exact readOpBlob_encodeBlob .datas _ hwf rest
  case createchar slot pat => exact readOpBlob_encodeBlob (.createchar slot) _ hwf rest
  case text t => exact readOpBlob_encodeBlob .text _ hwf rest
  case textc t => exact readOpBlob_encodeBlob .textc _ hwf rest
  case lcdboot => simp [Instr.isCore] at hcore
  all_goals rfl

/-- Settles O4, by the opcode: what its operands' readers have read. -/
theorem decodedBytesAreTheEncoding : Obligations.DecodedBytesAreTheEncoding := by
  intro offset bs rest i h
  cases bs with
  | nil => simp [decodeOne] at h
  | cons op tail =>
    have hnone : ∀ {j : Instr}, j.wf = true ∧ j.isCore = true ∧ encode j = [op] →
        (.ok (j, tail) : Except DecodeError (Instr × List Byte)) = .ok (i, rest) →
        i.wf = true ∧ i.isCore = true ∧ op :: tail = encode i ++ rest := by
      rintro j ⟨hwf, hcore, henc⟩ h
      obtain ⟨rfl, rfl⟩ := Prod.mk.inj (Except.ok.inj h)
      exact ⟨hwf, hcore, by rw [henc]; rfl⟩
    have hbyte : ∀ {f : Byte → Instr} {stop : Nat}, (∀ b, (f b).wf = true ∧ (f b).isCore = true ∧ encode (f b) = [op, b]) →
        readOpByte f stop tail = .ok (i, rest) → i.wf = true ∧ i.isCore = true ∧ op :: tail = encode i ++ rest := by
      intro f stop hf h
      obtain ⟨b, rfl, rfl⟩ := readOpByte_ok h
      obtain ⟨hwf, hcore, henc⟩ := hf b
      exact ⟨hwf, hcore, by rw [henc]; rfl⟩
    have hblob : ∀ {f : List Byte → Instr} {stop : Nat},
        (∀ x, (f x).wf = blobLenOk x ∧ (f x).isCore = true ∧ encode (f x) = op :: encodeBlob x) →
        readOpBlob f stop tail = .ok (i, rest) → i.wf = true ∧ i.isCore = true ∧ op :: tail = encode i ++ rest := by
      intro f stop hf h
      obtain ⟨x, rfl, hx, rfl⟩ := readOpBlob_ok h
      obtain ⟨hwf, hcore, henc⟩ := hf x
      exact ⟨hwf.trans hx, hcore, by rw [henc]; rfl⟩
    rw [decodeOne, decodeOperands] at h
    obtain ⟨hop, h⟩ | ⟨-, h⟩ := ite_eq_iff.1 h
    · exact hnone ⟨rfl, rfl, hop ▸ rfl⟩ h
    obtain ⟨hop, h⟩ | ⟨-, h⟩ := ite_eq_iff.1 h
    · exact hbyte (fun _ => ⟨rfl, rfl, hop ▸ rfl⟩) h
    obtain ⟨hop, h⟩ | ⟨-, h⟩ := ite_eq_iff.1 h
    · exact hbyte (fun _ => ⟨rfl, rfl, hop ▸ rfl⟩) h
    obtain ⟨hop, h⟩ | ⟨-, h⟩ := ite_eq_iff.1 h
    · exact hblob (fun _ => ⟨rfl, rfl, hop ▸ rfl⟩) h
    obtain ⟨hop, h⟩ | ⟨-, h⟩ := ite_eq_iff.1 h
    · exact hblob (fun _ => ⟨rfl, rfl, hop ▸ rfl⟩) h
    obtain ⟨hop, h⟩ | ⟨-, h⟩ := ite_eq_iff.1 h
    · exact hnone ⟨rfl, rfl, hop ▸ rfl⟩ h
    obtain ⟨hop, h⟩ | ⟨-, h⟩ := ite_eq_iff.1 h
    · exact hnone ⟨rfl, rfl, hop ▸ rfl⟩ h
    obtain ⟨hop, h⟩ | ⟨-, h⟩ := ite_eq_iff.1 h
    · exact hbyte (fun _ => ⟨rfl, rfl, hop ▸ rfl⟩) h
    obtain ⟨hop, h⟩ | ⟨-, h⟩ := ite_eq_iff.1 h
    · obtain ⟨slot, pat, rfl, hpat, rfl⟩ := readOpByteBlob_ok h
      exact ⟨hpat, rfl, hop ▸ rfl⟩
    obtain ⟨hop, h⟩ | ⟨-, h⟩ := ite_eq_iff.1 h
    · exact hblob (fun _ => ⟨rfl, rfl, hop ▸ rfl⟩) h
    obtain ⟨hop, h⟩ | ⟨-, h⟩ := ite_eq_iff.1 h
    · exact hblob (fun _ => ⟨rfl, rfl, hop ▸ rfl⟩) h
    obtain ⟨hop, h⟩ | ⟨-, h⟩ := ite_eq_iff.1 h
    · exact hnone ⟨rfl, rfl, hop ▸ rfl⟩ h
    obtain ⟨hop, h⟩ | ⟨-, h⟩ := ite_eq_iff.1 h
    · exact hbyte (fun _ => ⟨rfl, rfl, hop ▸ rfl⟩) h
    obtain ⟨hop, h⟩ | ⟨-, h⟩ := ite_eq_iff.1 h
    · exact hnone ⟨rfl, rfl, hop ▸ rfl⟩ h
    obtain ⟨hop, h⟩ | ⟨-, h⟩ := ite_eq_iff.1 h
    · exact hnone ⟨rfl, rfl, hop ▸ rfl⟩ h
    cases h

/-- R80: an operation cut after its opcode is refused where the stream ends, when its operands' reader refuses it there. -/
theorem decodeOne_cut (offset : Nat) (op : Byte) {xs : List Byte} {n : Nat} (hpos : 0 < n) (hn : n < (op :: xs).length)
    (hread : ∀ m stop, m < xs.length → decodeOperands offset stop op (xs.take m) = .error (.truncated stop)) :
    decodeOne offset ((op :: xs).take n) = .error (.truncated (offset + n)) := by
  obtain ⟨m, rfl⟩ : ∃ m, n = m + 1 := ⟨n - 1, by omega⟩
  have hm : m < xs.length := by simpa using hn
  rw [List.take_succ_cons, decodeOne, hread m _ hm, List.length_take, Nat.min_eq_left hm.le, Nat.add_right_comm, Nat.add_assoc]

/-- Settles O6: whatever operand the cut falls in, its reader refuses it where the stream ends. -/
theorem cutOperationsTruncated : Obligations.CutOperationsTruncated := by
  intro i offset n hwf hcore hpos hn
  cases i
  case lcdboot => simp [Instr.isCore] at hcore
  case instrs bs => exact decodeOne_cut offset _ hpos hn fun m stop hm => readOpBlob_cut .instrs stop hwf hm
  case datas bs => exact decodeOne_cut offset _ hpos hn fun m stop hm => readOpBlob_cut .datas stop hwf hm
  case text t => exact decodeOne_cut offset _ hpos hn fun m stop hm => readOpBlob_cut .text stop hwf hm
  case textc t => exact decodeOne_cut offset _ hpos hn fun m stop hm => readOpBlob_cut .textc stop hwf hm
  case createchar slot pat =>
    exact decodeOne_cut offset _ hpos hn fun m stop hm => readOpByteBlob_cut .createchar stop slot hwf hm
  case instr b => exact decodeOne_cut offset _ hpos hn fun m stop hm => readOpByte_cut .instr stop b hm
  case data b => exact decodeOne_cut offset _ hpos hn fun m stop hm => readOpByte_cut .data stop b hm
  case backlight color => exact decodeOne_cut offset _ hpos hn fun m stop hm => readOpByte_cut .backlight stop color hm
  case name mask => exact decodeOne_cut offset _ hpos hn fun m stop hm => readOpByte_cut .name stop mask hm
  all_goals exact decodeOne_cut offset _ hpos hn fun m stop hm => absurd hm m.not_lt_zero

/-- Settles O5: the opcode is none of the decoder's, and the step refuses what the decoder does. -/
theorem reservedOpcodesRefused : Obligations.ReservedOpcodesRefused := by
  intro s op rest hop hq hw hin
  have hrefused : decodeOne s.offset s.input = .error (.reservedOpcode op s.offset) := by
    simp only [List.mem_cons, not_or] at hop
    simp only [hin, decodeOne, decodeOperands, hop, if_false]
  refine ⟨hrefused, ?_⟩
  simp [Machine.step, hq, hw, hin, Machine.fetch, hin ▸ hrefused, Machine.refusalOf]

/-! ### Programs -/

/-- R84: LCDBOOT is written as the INSTRs it stands for. -/
theorem expand_flatMap_encode (i : Instr) : i.expand.flatMap encode = encode i := by
  cases i
  case lcdboot => rfl
  all_goals exact List.flatMap_singleton encode _

/-- What a well-formed operation stands for is well formed, and has opcodes. -/
theorem expand_wf_isCore {i j : Instr} (hi : i.wf = true) (h : j ∈ i.expand) : j.wf = true ∧ j.isCore = true := by
  obtain ⟨rfl, hne⟩ | ⟨x, rfl⟩ := Machine.mem_expand h
  · exact ⟨hi, by cases j <;> simp_all [Instr.isCore]⟩
  · exact ⟨rfl, rfl⟩

theorem encode_ne_nil (i : Instr) : encode i ≠ [] := by
  cases i <;> simp [encode, lcdbootBytes]

/-- The first operation of a stream, and then the rest of it. -/
theorem decodeFrom_succ {fuel offset : Nat} {bs rest : List Byte} {i : Instr} {is : List Instr}
    (hone : decodeOne offset bs = .ok (i, rest)) (hrest : decodeFrom fuel (offset + (bs.length - rest.length)) rest = .ok is) :
    decodeFrom (fuel + 1) offset bs = .ok (i :: is) := by
  cases bs with
  | nil => simp [decodeOne] at hone
  | cons b bs => simp only [decodeFrom, hone, hrest]

/-- R78, R79: with fuel for every byte, the encodings of operations with opcodes decode to them. -/
theorem decodeFrom_flatMap_encode : ∀ (is : List Instr) (fuel offset : Nat), (∀ i ∈ is, i.wf = true ∧ i.isCore = true) →
    (is.flatMap encode).length ≤ fuel → decodeFrom fuel offset (is.flatMap encode) = .ok is := by
  intro is
  induction is with
  | nil => intro fuel offset _ _; cases fuel <;> rfl
  | cons i is ih =>
    intro fuel offset his hfuel
    obtain ⟨⟨hwf, hcore⟩, his⟩ := List.forall_mem_cons.1 his
    have hlen := List.length_pos_of_ne_nil (encode_ne_nil i)
    rw [List.flatMap_cons] at hfuel ⊢
    rw [List.length_append] at hfuel
    obtain ⟨k, rfl⟩ : ∃ k, fuel = k + 1 := ⟨fuel - 1, by omega⟩
    exact decodeFrom_succ (operationRoundTrip i offset _ hwf hcore) (ih k _ his (by omega))

/-- Settles O3: LCDBOOT is its expansion, and every other operation is read back where it begins. -/
theorem programRoundTrip : Obligations.ProgramRoundTrip := by
  intro is his
  have hbytes : is.flatMap encode = (is.flatMap Instr.expand).flatMap encode := by
    rw [List.flatMap_assoc]
    exact (List.flatMap_congr fun i _ => expand_flatMap_encode i).symm
  rw [decodeAll, hbytes]
  refine decodeFrom_flatMap_encode _ _ 0 (fun j hj => ?_) le_rfl
  obtain ⟨i, hi, hj⟩ := List.mem_flatMap.1 hj
  exact expand_wf_isCore (his i hi) hj

/-- Settles O1: the words are encodings written out. -/
theorem specWordsDecode : Obligations.SpecWordsDecode := by
  refine ⟨rfl, ?_, ?_, ?_, ?_, ?_, rfl, rfl⟩
  · exact programRoundTrip [.init, .instr 0x01, .datas [0x48, 0x69], .sample] (by decide)
  · exact programRoundTrip [.createchar 0x03 [0x01, 0x02, 0x03, 0x04, 0x05, 0x06, 0x07, 0x08]] (by decide)
  · exact programRoundTrip [.name 0x03, .close, .tick, .clear, .home] (by decide)
  · exact programRoundTrip [.backlight 0x06, .textc [0x48, 0x69, 0x0A, 0x59, 0x6F]] (by decide)
  · exact programRoundTrip [.data 0x41, .instrs [], .text [0x41]] (by decide)

end Sys2Proof

namespace Sys2Proof.Machine

/-! ### The remap table (R63) -/

theorem nibble_ext : ∀ {m n : BitVec 4}, m.getLsbD 0 = n.getLsbD 0 → m.getLsbD 1 = n.getLsbD 1 → m.getLsbD 2 = n.getLsbD 2 →
    m.getLsbD 3 = n.getLsbD 3 → m = n := by decide

theorem exists_nibble : ∀ b0 b1 b2 b3 : Bool, ∃ n : BitVec 4,
    n.getLsbD 0 = b0 ∧ n.getLsbD 1 = b1 ∧ n.getLsbD 2 = b2 ∧ n.getLsbD 3 = b3 := by decide

/-- Two nibbles with one entry raise the same data lines. -/
theorem flipTable_injective {cfg : Config} (h : cfg.wf = true) {m n : BitVec 4} (hmn : flipTable cfg m = flipTable cfg n) :
    m = n := by
  obtain ⟨-, m4, m5, m6, m7⟩ := frame_lines h Block.reset false m
  obtain ⟨-, n4, n5, n6, n7⟩ := frame_lines h Block.reset false n
  rw [hmn] at m4 m5 m6 m7
  exact nibble_ext (m4.symm.trans n4) (m5.symm.trans n5) (m6.symm.trans n6) (m7.symm.trans n7)

/-- A pin is one line, so it is wholly raised in a byte or not at all. -/
theorem maskIf_anyBit {b p : Byte} (hp : singleBit p = true) : maskIf (anyBit b p) p = b &&& p := by
  have hbyte : ∀ b : Byte, maskIf (anyBit b 0x01) 0x01 = b &&& 0x01 ∧ maskIf (anyBit b 0x02) 0x02 = b &&& 0x02 ∧
      maskIf (anyBit b 0x04) 0x04 = b &&& 0x04 ∧ maskIf (anyBit b 0x08) 0x08 = b &&& 0x08 ∧
      maskIf (anyBit b 0x10) 0x10 = b &&& 0x10 ∧ maskIf (anyBit b 0x20) 0x20 = b &&& 0x20 ∧
      maskIf (anyBit b 0x40) 0x40 = b &&& 0x40 ∧ maskIf (anyBit b 0x80) 0x80 = b &&& 0x80 := by decide
  obtain ⟨h0, h1, h2, h3, h4, h5, h6, h7⟩ := hbyte b
  rcases singleBit_cases p hp with rfl | rfl | rfl | rfl | rfl | rfl | rfl | rfl <;> assumption

/-- The data lines of a byte are an entry of the table. -/
theorem exists_flipTable {cfg : Config} (h : cfg.wf = true) (b : Byte) :
    ∃ n, flipTable cfg n = b &&& (cfg.pinD4 ||| cfg.pinD5 ||| cfg.pinD6 ||| cfg.pinD7) := by
  have hsingle := (wf_pins h).single
  simp only [Config.portbMasks, List.mem_cons, List.not_mem_nil, forall_eq_or_imp, or_false] at hsingle
  obtain ⟨-, -, -, h4, h5, h6, h7, -⟩ := hsingle
  obtain ⟨n, n4, n5, n6, n7⟩ := exists_nibble (anyBit b cfg.pinD4) (anyBit b cfg.pinD5) (anyBit b cfg.pinD6) (anyBit b cfg.pinD7)
  refine ⟨n, ?_⟩
  rw [flipTable, n4, n5, n6, n7, maskIf_anyBit h4, maskIf_anyBit h5, maskIf_anyBit h6, maskIf_anyBit h7]
  simp only [BitVec.and_or_distrib_left]

theorem flipTable_dataLines (cfg : Config) (n : BitVec 4) :
    flipTable cfg n &&& ~~~(cfg.pinD4 ||| cfg.pinD5 ||| cfg.pinD6 ||| cfg.pinD7) = 0 := by
  refine flipTable_and_eq_zero ?_ ?_ ?_ ?_ n <;> ext i hi <;> simp +contextual

theorem eq_and_of_and_not_eq_zero {b m : Byte} (h : b &&& ~~~m = 0) : b = b &&& m := by
  have hsplit : b = (b &&& m) ||| (b &&& ~~~m) := by
    ext i hi
    simp only [BitVec.getElem_and, BitVec.getElem_or, BitVec.getElem_not]
    cases b[i] <;> cases m[i] <;> rfl
  rwa [h, show ((b &&& m) ||| (0 : Byte)) = b &&& m from BitVec.or_zero] at hsplit

/-- Settles O16: the bits of a nibble are the data lines its entry raises. -/
theorem remapTable : Obligations.RemapTable := by
  refine ⟨fun _ _ => rfl, by decide, fun cfg h => ⟨fun _ _ => flipTable_injective h, fun b => ⟨fun hb => ?_, ?_⟩⟩⟩
  · obtain ⟨n, hn⟩ := exists_flipTable h b
    exact ⟨n, hn.trans (eq_and_of_and_not_eq_zero hb).symm⟩
  · rintro ⟨n, rfl⟩
    exact flipTable_dataLines cfg n

/-! ### Frames, commands and colours -/

/-- Settles O17: the definitions, written out. -/
theorem frameAndPollBytes : Obligations.FrameAndPollBytes := fun _ _ _ _ _ => ⟨rfl, rfl, rfl, rfl⟩

theorem cgramCmd_mask {cfg : Config} (hp : cfg.slotPolicy = .mask) (slot : Byte) :
    cgramCmd cfg slot = cfg.cmdSetCgram ||| ((slot &&& 7) <<< 3) := by simp only [cgramCmd, slotOf, hp]

theorem cgramCmd_reject {cfg : Config} (hp : cfg.slotPolicy = .reject) (slot : Byte) :
    cgramCmd cfg slot = cfg.cmdSetCgram ||| (slot <<< 3) := by simp only [cgramCmd, slotOf, hp]

/-- Settles O20: under either policy the slot that counts is one of eight. -/
theorem cgramCommand : Obligations.CgramCommand := by
  intro cfg slot hcmd
  have hrange : ∀ x : Byte, 0x40 ≤ (0x40 : Byte) ||| ((x &&& 7) <<< 3) ∧ (0x40 : Byte) ||| ((x &&& 7) <<< 3) ≤ 0x7F ∧
      ((0x40 : Byte) ||| ((x &&& 7) <<< 3)) &&& 7 = 0 := by decide
  have hsmall : ∀ x : Byte, x ≤ 7 → x &&& 7 = x := by decide
  have hmask : cfg.slotPolicy = .mask → cgramCmd cfg slot = 0x40 ||| ((slot &&& 7) <<< 3) :=
    fun hp => (cgramCmd_mask hp slot).trans (congrArg (· ||| _) hcmd)
  have hreject : cfg.slotPolicy = .reject → cgramCmd cfg slot = 0x40 ||| (slot <<< 3) :=
    fun hp => (cgramCmd_reject hp slot).trans (congrArg (· ||| _) hcmd)
  refine ⟨hmask, fun hp _ => hreject hp, fun h => ?_⟩
  have hcgram : cgramCmd cfg slot = 0x40 ||| ((slot &&& 7) <<< 3) := by
    cases hp : cfg.slotPolicy with
    | mask => exact hmask hp
    | reject => rw [hreject hp, hsmall slot (h.resolve_left (by simp [hp]))]
  rw [hcgram]
  exact hrange slot

theorem anyBit_self {p : Byte} (hp : singleBit p = true) : anyBit p p = true := by
  simp only [singleBit, Bool.and_eq_true] at hp
  simpa [anyBit] using hp.1

theorem anyBit_and_not {a m p : Byte} (h : p &&& m = p) : anyBit (a &&& ~~~m) p = false := by
  rw [anyBit_eq_false_iff, ← h]
  ext i hi
  simp +contextual

/-- R82: red, green and blue of the colour bytes show the inverted colour, whatever the ports held. -/
theorem colorPort_lines {cfg : Config} (h : cfg.wf = true) (pa pb color : Byte) :
    anyBit (colorPortA cfg pa color) cfg.pinRed = anyBit (invertedColor color) cfg.colorRed ∧
      anyBit (colorPortA cfg pa color) cfg.pinGreen = anyBit (invertedColor color) cfg.colorGreen ∧
      anyBit (colorPortB cfg pb color) cfg.pinBlue = anyBit (invertedColor color) cfg.colorBlue := by
  obtain ⟨-, hpins, -⟩ := wf_checks h
  simp only [Config.colourPinsOk, Bool.and_eq_true, bne_iff_ne] at hpins
  obtain ⟨⟨⟨hred, hgreen⟩, hne⟩, -⟩ := hpins
  have hblue : singleBit cfg.pinBlue = true := (wf_pins h).single _ (by simp [Config.portbMasks])
  have hrg := anyBit_eq_false_iff.2 (singleBit_disjoint hred hgreen hne)
  have hgr := anyBit_eq_false_iff.2 (singleBit_disjoint hgreen hred hne.symm)
  have hkeep : anyBit (pa &&& ~~~(cfg.pinRed ||| cfg.pinGreen)) cfg.pinRed = false ∧
      anyBit (pa &&& ~~~(cfg.pinRed ||| cfg.pinGreen)) cfg.pinGreen = false ∧ anyBit (pb &&& ~~~cfg.pinBlue) cfg.pinBlue = false :=
    ⟨anyBit_and_not (by ext i hi; simp +contextual), anyBit_and_not (by ext i hi; simp +contextual),
      anyBit_and_not BitVec.and_self⟩
  obtain ⟨hkr, hkg, hkb⟩ := hkeep
  simp only [colorPortA, colorPortB, anyBit_or, anyBit_maskIf, anyBit_self hred, anyBit_self hgreen, anyBit_self hblue, hrg, hgr,
    hkr, hkg, hkb, Bool.and_true, Bool.and_false, Bool.false_or, Bool.or_false, and_self]

/-- Settles O40: red and green are colour bits 0 and 1 at port A's bits 6 and 7, blue is bit 2 at port B's bit 0. -/
theorem colourBytes : Obligations.ColourBytes := by
  intro pa pb color
  have hred_green : ∀ c : Byte, maskIf (anyBit (invertedColor c) 0x1) 0x40 ||| maskIf (anyBit (invertedColor c) 0x2) 0x80 =
      (~~~c &&& 0x3) <<< 6 := by decide
  have hblue : ∀ c : Byte, maskIf (anyBit (invertedColor c) 0x4) 0x01 = (~~~c &&& 0x4) >>> 2 := by decide
  have hshown : ∀ c : Byte, ~~~(maskIf (anyBit (invertedColor c) 0x1) 0x1 ||| maskIf (anyBit (invertedColor c) 0x2) 0x2 |||
      maskIf (anyBit (invertedColor c) 0x4) 0x4) &&& 0x07 = c &&& 7 := by decide
  obtain ⟨hr, hg, hb⟩ := colorPort_lines (cfg := Config.default) (by decide) pa pb color
  refine ⟨?_, ?_, ?_⟩
  · rw [← hred_green color, ← BitVec.or_assoc]; rfl
  · rw [← hblue color]; rfl
  · simp only [shownColor, hr, hg, hb]
    exact hshown color

end Sys2Proof.Machine

namespace Sys2Proof.Machine

/-! ### Bodies that do the same

Two runs of one operation, or of two whose lines do the same, differ only in how many transactions came before and in the results given before. -/

/-- Lines that do the same, one by one, but for lines that do nothing. -/
inductive SameLines (cfg : Config) : List Line → List Line → Prop
  | nil : SameLines cfg [] []
  | cons {l l' : Line} {ls ls' : List Line} (hl : ∀ b, l'.perform cfg b = l.perform cfg b) (h : SameLines cfg ls ls') :
      SameLines cfg (l :: ls) (l' :: ls')
  | skip {l : Line} {ls ls' : List Line} (hl : ∀ b, l.perform cfg b = .go b []) (h : SameLines cfg ls ls') :
      SameLines cfg (l :: ls) ls'

theorem SameLines.refl (cfg : Config) : ∀ ls : List Line, SameLines cfg ls ls
  | [] => .nil
  | _ :: ls => .cons (fun _ => rfl) (refl cfg ls)

/-- A run of the Host from results `os`, and beside it one from results `os'` with `n` transactions before its own: both in progress at one point,
or both ended with one result, a TransportError's index apart. -/
inductive Alongside (cfg : Config) (n : Nat) (os os' : List OpResult) : State → State → Prop
  | running {t : State} {r : Running} {ls : List Line} (hcfg : t.cfg = cfg) (hq : t.seq = .running r) (hp : r.port = .host)
      (hls : SameLines cfg r.lines ls) (hres : t.results = os) :
      Alongside cfg n os os' t { t with seq := .running { r with lines := ls, emitted := r.emitted + n }, results := os' }
  | ended {t : State} {o : OpResult} (hq : t.seq = .between) (hres : t.results = os ++ [o]) :
      Alongside cfg n os os' t { t with results := os' ++ [o.after n] }

/-- What is said of the result, where a body ends here. -/
def Cont.Ends (P : OpResult → Prop) : Cont → Prop
  | .go _ _ => True
  | .raise _ e => P (.err e)
  | .done _ v => P (.ok v)

/-- A result a line ends with records no index, for a line raises no TransportError; and it is not `Ok(())` unless the line returns that. -/
theorem perform_ends (cfg : Config) (b : Block) (l : Line) :
    (l.perform cfg b).Ends fun o => (∀ n, o.after n = o) ∧ (o = .ok .unit → l = .ret .unit) := by
  cases l
  case requireReady =>
    simp only [Line.perform, requireReady]
    split
    · trivial
    · exact ⟨fun _ => rfl, nofun⟩
  case prologue =>
    simp only [Line.perform, lcdPrologue]
    split
    · split <;> trivial
    · exact ⟨fun _ => rfl, nofun⟩
  case requirePattern =>
    simp only [Line.perform, requirePattern]
    split
    · trivial
    · exact ⟨fun _ => rfl, nofun⟩
  case requireSlot =>
    simp only [Line.perform, requireSlot]
    split
    · exact ⟨fun _ => rfl, nofun⟩
    · trivial
  case tickGate =>
    simp only [Line.perform]
    split
    · trivial
    · exact ⟨fun _ => rfl, nofun⟩
  case ret v => exact ⟨fun _ => rfl, fun h => by cases h; rfl⟩
  all_goals trivial

/-- Of the bus steps a poll's decision may end the body, with BusyTimeout, and the two reads of the buttons do. -/
theorem onOk_ends (cfg : Config) (b : Block) (d : Byte) (a : Act) :
    (a.onOk cfg b d).Ends fun o => (∀ n, o.after n = o) ∧ o ≠ .ok .unit := by
  cases a
  case pollStrobeRest =>
    simp only [Act.onOk, pollDecide]
    split
    · split
      · exact ⟨fun _ => rfl, nofun⟩
      · trivial
    · trivial
  case readButtons => exact ⟨fun _ => rfl, nofun⟩
  case readTick => exact ⟨fun _ => rfl, nofun⟩
  all_goals trivial

/-- Where the sequencer stood does not matter once the answer is there. -/
theorem answer_seq (q : Seq) (a : Answer) (r : Running) (s : State) : answer a r { s with seq := q } = answer a r s := by
  cases a with
  | error => cases hp : r.port <;> simp only [answer, hp] <;> rfl
  | ok d =>
    simp only [answer]
    cases r.act.onOk s.cfg s.block d with
    | go b acts => exact proceed_seq _ q _ _ _ { s with block := b }
    | raise b e => cases r.port <;> rfl
    | done b v => cases r.port <;> rfl

section
variable {cfg : Config} {n : Nat} {os' : List OpResult}

theorem complete_alongside {o o' : OpResult} (h : o.after n = o') (s : State) :
    Alongside cfg n s.results os' (complete .host o s) (complete .host o' { s with results := os' }) := by
  subst h
  exact .ended rfl rfl

theorem emit_alongside {ls ls' : List Line} (h : SameLines cfg ls ls') (k : Nat) (a : Act) (as : List Act) {s : State} (hcfg : s.cfg = cfg) :
    Alongside cfg n s.results os' (emit .host k a as ls s) (emit .host (k + n) a as ls' { s with results := os' }) := by
  rw [emit, emit, Nat.add_right_comm]
  exact .running (t := emit .host k a as ls s) hcfg rfl rfl h rfl

theorem proceed_alongside {ls ls' : List Line} (h : SameLines cfg ls ls') : ∀ (k : Nat) (acts : List Act) (s : State), s.cfg = cfg →
    Alongside cfg n s.results os' (proceed .host k acts ls s) (proceed .host (k + n) acts ls' { s with results := os' }) := by
  induction h with
  | nil =>
    intro k acts s hcfg
    cases acts with
    | nil => exact complete_alongside rfl s
    | cons a as => exact emit_alongside .nil k a as hcfg
  | @cons l l' ls ls' hl h ih =>
    intro k acts s hcfg
    cases acts with
    | nil =>
      subst hcfg
      rw [proceed_line, proceed_line]
      simp only [hl]
      have hends := perform_ends s.cfg s.block l
      generalize l.perform s.cfg s.block = c at hends ⊢
      cases c with
      | go b acts => exact ih k acts { s with block := b } rfl
      | raise b e => exact complete_alongside (hends.1 n) { s with block := b }
      | done b v => exact complete_alongside (hends.1 n) { s with block := b }
    | cons a as => exact emit_alongside (.cons hl h) k a as hcfg
  | @skip l ls ls' hl h ih =>
    intro k acts s hcfg
    cases acts with
    | nil =>
      rw [proceed_line]
      subst hcfg
      simp only [hl]
      exact ih k [] s rfl
    | cons a as => rw [proceed_act, proceed_act]; exact emit_alongside (.skip hl h) k a as hcfg

theorem answer_alongside {r : Running} {ls : List Line} (hp : r.port = .host) (hls : SameLines cfg r.lines ls) (a : Answer) {s : State}
    (hcfg : s.cfg = cfg) : Alongside cfg n s.results os' (answer a r s)
      (answer a { r with lines := ls, emitted := r.emitted + n } { s with results := os' }) := by
  cases a with
  | error =>
    simp only [answer, hp]
    exact complete_alongside rfl { s with block := { s.block with stale := true } }
  | ok d =>
    subst hcfg
    simp only [answer, hp]
    have hends := onOk_ends s.cfg s.block d r.act
    generalize r.act.onOk s.cfg s.block d = c at hends ⊢
    cases c with
    | go b new => exact proceed_alongside hls r.emitted (new ++ r.acts) { s with block := b } rfl
    | raise b e => exact complete_alongside (hends.1 n) { s with block := b }
    | done b v => exact complete_alongside (hends.1 n) { s with block := b }

theorem Alongside.drain {os : List OpResult} {t t' : State} (as : List Answer) (h : Alongside cfg n os os' t t') :
    Alongside cfg n os os' (drain as t) (Machine.drain as t') := by
  induction as generalizing t t' with
  | nil => exact h
  | cons a as ih =>
    cases h with
    | @running r ls hcfg hq hp hls hres =>
      rw [drain_running hq, drain_running rfl]
      have hseq := answer_seq (.running { r with lines := ls, emitted := r.emitted + n }) a
        { r with lines := ls, emitted := r.emitted + n } { t with results := os' }
      rw [hseq]
      exact ih (hres ▸ answer_alongside hp hls a hcfg)
    | @ended o hq hres =>
      simp only [Machine.drain, hq]
      exact .ended (t := { t with seq := .between, env := a :: as }) rfl hres

/-- Bodies whose lines do the same, performed with the same answers, one of them from other results and with `n` transactions before it. -/
theorem beginOp_alongside {s : State} {ls ls' : List Line} (h : SameLines s.cfg ls ls') (n : Nat) (os' : List OpResult) :
    Alongside s.cfg n s.results os' (beginOp .host ls s) (drain s.env (proceed .host n [] ls' { s with env := [], results := os' })) := by
  have halong := proceed_alongside (n := n) (os' := os') h 0 [] { s with env := [] } rfl
  rw [Nat.zero_add] at halong
  exact halong.drain s.env

end

theorem OpResult.after_zero (o : OpResult) : o.after 0 = o := by
  cases o with
  | ok v => rfl
  | err e => cases e <;> rfl

/-- Operations whose bodies do the same go the same way, with the same results. -/
theorem beginOp_sameLines {s : State} {ls ls' : List Line} (h : SameLines s.cfg ls ls') :
    (beginOp .host ls s).trace = (beginOp .host ls' s).trace ∧ (beginOp .host ls s).results = (beginOp .host ls' s).results ∧
      (beginOp .host ls s).block = (beginOp .host ls' s).block ∧ (beginOp .host ls s).env = (beginOp .host ls' s).env := by
  have halong : Alongside s.cfg 0 s.results s.results (beginOp .host ls s) (beginOp .host ls' s) := beginOp_alongside h 0 s.results
  generalize beginOp .host ls s = t, beginOp .host ls' s = t' at halong ⊢
  cases halong with
  | running _ _ _ _ hres => exact ⟨rfl, hres, rfl, rfl⟩
  | @ended o _ hres => exact ⟨rfl, by rw [hres, o.after_zero], rfl, rfl⟩

/-- R106: a sequence of one byte is that byte's frame. -/
theorem batches_singleton (cfg : Config) (m v : Byte) : batches cfg m [v] = [frame cfg m v] := by
  simp [batches, batchesFrom]

theorem emitSeq_singleton (cfg : Config) (c : Bool) (v : Byte) (b : Block) :
    (Line.emitSeq c [v]).perform cfg b = (Line.emitByte c v).perform cfg b := by
  simp [Line.perform, batches_singleton]

theorem slowStep_skip {cfg : Config} {v : Byte} (h : isSlow cfg v = false) (b : Block) :
    (Line.slowStep v).perform cfg b = .go b [] := by simp [Line.perform, h]

/-- Settles O52: a sequence of one byte does what the byte does, and outside the slow set INSTR's last line does nothing. -/
theorem singletonSequences : Obligations.SingletonSequences := by
  intro s t u b hq
  have hseq : ∀ c, SameLines s.cfg [.prologue, .emitByte c b] (seqBody c [b]) := fun c =>
    .cons (fun _ => rfl) (.cons (emitSeq_singleton _ _ _) .nil)
  constructor
  · intro ht hu
    rw [exec_between (by simp) hq] at ht hu
    cases ht; cases hu
    exact beginOp_sameLines (hseq true)
  · intro hslow ht hu
    rw [exec_between (by simp) hq] at ht hu
    cases ht; cases hu
    exact beginOp_sameLines (.cons (fun _ => rfl) (.cons (emitSeq_singleton _ _ _) (.skip (slowStep_skip hslow) .nil)))

/-! ### A body with more lines after it

A line that returns `()` itself would end the longer body too, so the lines are to be others. -/

/-- A run of the Host, begun with `m` transactions sent and the results `os` given, and beside it a run of the same body with the lines `more` after
it: both await one answer; or the first has ended and not with `Ok(())`, and so has the second; or the first has run off its last line, and the
second has gone on with `more` and the answers left. -/
inductive AndThen (more : List Line) (m : Nat) (os : List OpResult) : State → State → Prop
  | awaits {u : State} {r : Running} (hq : u.seq = .running r) (hp : r.port = .host) (hls : ∀ l ∈ r.lines, l ≠ .ret .unit)
      (hk : u.trace.length = m + r.emitted) (hres : u.results = os) :
      AndThen more m os u { u with seq := .running { r with lines := r.lines ++ more } }
  | stops {u : State} {o : OpResult} (hq : u.seq = .between) (ho : o ≠ .ok .unit) (hres : u.results = os ++ [o]) :
      AndThen more m os u u
  | goesOn {u : State} {k : Nat} (hq : u.seq = .between) (hk : u.trace.length = m + k) (hres : u.results = os ++ [.ok .unit]) :
      AndThen more m os u (drain u.env (proceed .host k [] more { u with env := [], results := os }))

section
variable {more : List Line} {m : Nat}

theorem proceed_andThen : ∀ (ls : List Line) (k : Nat) (acts : List Act) (s : State), (∀ l ∈ ls, l ≠ .ret .unit) →
    s.env = [] → s.trace.length = m + k →
    AndThen more m s.results (proceed .host k acts ls s) (proceed .host k acts (ls ++ more) s) := by
  have hemit : ∀ (ls : List Line) (k : Nat) (a : Act) (as : List Act) (s : State), (∀ l ∈ ls, l ≠ .ret .unit) →
      s.trace.length = m + k → AndThen more m s.results (emit .host k a as ls s) (emit .host k a as (ls ++ more) s) :=
    fun ls k a as s hls hk => .awaits (u := emit .host k a as ls s) rfl rfl hls (by simp [hk, Nat.add_assoc]) rfl
  intro ls
  induction ls with
  | nil =>
    intro k acts s hls henv hk
    cases acts with
    | nil =>
      have hgo := AndThen.goesOn (more := more) (u := complete .host (.ok .unit) s) rfl hk rfl
      rw [complete_env, henv, drain_nil, proceed_congr (s := s) (h := by rw [← henv]; rfl)] at hgo
      exact hgo
    | cons a as => rw [proceed_act, proceed_act]; exact hemit [] k a as s hls hk
  | cons l ls ih =>
    intro k acts s hls henv hk
    cases acts with
    | cons a as => exact hemit (l :: ls) k a as s hls hk
    | nil =>
      obtain ⟨hl, hls⟩ := List.forall_mem_cons.1 hls
      rw [List.cons_append, proceed_line, proceed_line]
      have hends := perform_ends s.cfg s.block l
      generalize l.perform s.cfg s.block = c at hends ⊢
      cases c with
      | go b acts => exact ih k acts { s with block := b } hls henv hk
      | raise b e => exact .stops (o := .err e) rfl nofun rfl
      | done b v => exact .stops rfl (mt hends.2 hl) rfl

theorem answer_andThen {r : Running} {s : State} (a : Answer) (hp : r.port = .host) (hls : ∀ l ∈ r.lines, l ≠ .ret .unit)
    (henv : s.env = []) (hk : s.trace.length = m + r.emitted) :
    AndThen more m s.results (answer a r s) (answer a { r with lines := r.lines ++ more } s) := by
  cases a with
  | error => simp only [answer, hp]; exact .stops (o := .err _) rfl nofun rfl
  | ok d =>
    simp only [answer, hp]
    have hends := onOk_ends s.cfg s.block d r.act
    generalize r.act.onOk s.cfg s.block d = c at hends ⊢
    cases c with
    | go b new => exact proceed_andThen r.lines r.emitted (new ++ r.acts) { s with block := b } hls henv hk
    | raise b e => exact .stops (o := .err e) rfl nofun rfl
    | done b v => exact .stops rfl hends.2 rfl

theorem AndThen.drain {os : List OpResult} {u w : State} (as : List Answer) (h : AndThen more m os u w) (henv : u.env = []) :
    AndThen more m os (drain as u) (Machine.drain as w) := by
  induction as generalizing u w with
  | nil => exact h
  | cons a as ih =>
    cases h with
    | @awaits r hq hp hls hk hres =>
      have hseq := answer_seq (.running { r with lines := r.lines ++ more }) a { r with lines := r.lines ++ more } u
      rw [drain_running hq, drain_running rfl, hseq]
      exact ih (hres ▸ answer_andThen a hp hls henv hk) ((answer_kept _ _ _).2.trans henv)
    | @stops o hq ho hres =>
      rw [drain_between hq henv]
      exact .stops (u := { u with env := a :: as }) hq ho hres
    | @goesOn k hq hk hres =>
      rw [drain_between hq henv, henv]
      exact .goesOn (u := { u with env := a :: as }) hq hk hres

/-- A body, and the same body with more lines after it, performed from one state. -/
theorem beginOp_andThen {body : List Line} (h : ∀ l ∈ body, l ≠ .ret .unit) (more : List Line) (s : State) :
    AndThen more s.trace.length s.results (beginOp .host body s) (beginOp .host (body ++ more) s) :=
  (proceed_andThen body 0 [] { s with env := [] } h rfl rfl).drain s.env (proceed_kept .host body 0 [] { s with env := [] }).2

end

/-! ### TEXTC -/

theorem beginOp_ready (p : Port) (body : List Line) {s : State} (h : s.block.ready = true) :
    beginOp p (.requireReady :: body) s = beginOp p body s :=
  congrArg (drain s.env) (proceed_ready p 0 body { s with env := [] } h)

/-- TEXT and TEXTC begin on a ready block with their lines alone. -/
theorem exec_text_ready {s : State} (hq : s.seq = .between) (hr : s.block.ready = true) (t : List Byte) :
    exec (.text t) s = .next (beginOp .host (textLines s.cfg (splitLines s.cfg.lineSep t)) s) ∧
      exec (.textc t) s =
        .next (beginOp .host (instrBody s.cfg.cmdClear ++ textLines s.cfg (splitLines s.cfg.lineSep t)) s) := by
  rw [exec_between (by simp) hq, exec_between (by simp) hq]
  exact ⟨congrArg _ (beginOp_ready .host _ hr), congrArg _ (beginOp_ready .host _ hr)⟩

/-- Settles O53: TEXTC's body is CLEAR's and then TEXT's, so it is suspended or stopped where CLEAR is, and goes on beside TEXT where CLEAR ends. -/
theorem textcIsClearThenText : Obligations.TextcIsClearThenText := by
  intro s u t hq hr hu
  obtain ⟨hcfg, -, hur, -⟩ := lcdOperationsFrame .clear s u rfl hq hu
  rw [exec_between (by simp) hq] at hu
  have hbeside := beginOp_andThen (body := instrBody s.cfg.cmdClear) (by simp [instrBody])
    (textLines s.cfg (splitLines s.cfg.lineSep t)) s
  rw [show beginOp .host (instrBody s.cfg.cmdClear) s = u from Host.Outcome.next.inj hu] at hbeside
  rw [(exec_text_ready hq hr t).2]
  generalize beginOp .host (instrBody s.cfg.cmdClear ++ textLines s.cfg (splitLines s.cfg.lineSep t)) s = w at hbeside
  cases hbeside with
  | @awaits r hq hp hls hk hres =>
    refine ⟨fun _ h => by simp [hq] at h, fun r' h => ?_, fun _ h => by simp [hq] at h⟩
    obtain rfl : r = r' := Seq.running.inj (hq.symm.trans h)
    exact ⟨_, _, rfl, rfl, rfl, rfl, rfl, hres, rfl⟩
  | @stops o hq ho hres =>
    refine ⟨fun _ _ _ => rfl, fun r h => by simp [hq] at h, fun v _ h => absurd ?_ ho⟩
    simpa using hres.symm.trans h
  | @goesOn k hq hk hres =>
    refine ⟨fun e _ h => by simp [hres] at h, fun r h => by simp [hq] at h, fun v _ _ hv => ?_⟩
    have hk' : u.trace.length - s.trace.length = k := by omega
    have halong := beginOp_alongside (SameLines.refl u.cfg (textLines s.cfg (splitLines s.cfg.lineSep t))) k s.results
    rw [(exec_text_ready hq (hur.trans hr) t).1, hcfg] at hv
    rw [Host.Outcome.next.inj hv] at halong
    rw [hk']
    generalize drain u.env _ = w at halong ⊢
    cases halong with
    | @running r _ _ hqv _ _ _ =>
      refine ⟨fun _ h => by simp [hqv] at h, fun r' h => ?_⟩
      obtain rfl : r = r' := Seq.running.inj (hqv.symm.trans h)
      exact ⟨_, _, rfl, rfl, rfl, rfl, rfl, rfl, rfl⟩
    | @ended o hqv hresv =>
      refine ⟨fun o' _ h => ?_, fun r h => by simp [hqv] at h⟩
      obtain rfl : o = o' := by simpa using hresv.symm.trans h
      rfl

end Sys2Proof.Machine

namespace Sys2Proof.Machine

/-! ### Answers that are all ok -/

theorem allOk_cons_iff {a : Answer} {as : List Answer} : allOk (a :: as) = true ↔ (∃ d, a = .ok d) ∧ allOk as = true := by
  cases a <;> simp [allOk, Answer.isOk]

/-- The first of some ok answers, and the others. -/
theorem allOk_uncons {as : List Answer} {n : Nat} (h : allOk as = true) (hlen : as.length = n + 1) :
    ∃ d as', as = .ok d :: as' ∧ allOk as' = true ∧ as'.length = n := by
  cases as with
  | nil => simp at hlen
  | cons a as =>
    obtain ⟨⟨d, rfl⟩, h⟩ := allOk_cons_iff.1 h
    exact ⟨d, as, rfl, h, by simpa using hlen⟩

/-- Ok answers in two parts. -/
theorem allOk_split {as : List Answer} {m n : Nat} (h : allOk as = true) (hlen : as.length = m + n) :
    ∃ xs ys, as = xs ++ ys ∧ allOk xs = true ∧ allOk ys = true ∧ xs.length = m ∧ ys.length = n := by
  refine ⟨as.take m, as.drop m, (List.take_append_drop m as).symm, ?_, ?_, by simp [hlen], by simp [hlen]⟩
  · exact List.all_eq_true.2 fun a ha => List.all_eq_true.1 h a (List.mem_of_mem_take ha)
  · exact List.all_eq_true.2 fun a ha => List.all_eq_true.1 h a (List.mem_of_mem_drop ha)

/-! ### INSTR, its answers ok -/

/-- S after a command's frame has been answered ok. -/
def afterCommand (cfg : Config) (blk : Block) (v : Byte) : Block :=
  { blk with portb := base cfg blk false ||| flipTable cfg (lowNibble v) }

/-- The WR of a command's frame. -/
def commandTx (cfg : Config) (blk : Block) (v : Byte) : Tx := frameTx (frame cfg (base cfg blk false) v)

/-- S after D7 has been made an input. -/
def afterSlow (cfg : Config) (blk : Block) : Block := { blk with ddrb := blk.ddrb ||| cfg.ddrbD7Dir }

/-- The direction write of a slow command. -/
def slowTx (cfg : Config) (blk : Block) : Tx := .wr .iodirb [blk.ddrb ||| cfg.ddrbD7Dir]

/-- `s` inside an operation that has left the block state `blk`, emitted `txs` and taken the answers. -/
def State.within (s : State) (blk : Block) (txs : List Tx) : State := { s with block := blk, env := [], trace := s.trace ++ txs }

theorem beginOp_within (p : Port) (body : List Line) (s : State) :
    beginOp p body s = drain s.env (proceed p 0 [] body (s.within s.block [])) := by
  simp [beginOp, State.within]

/-- A body that has run off its last line. -/
theorem drain_finished (n : Nat) (rest : List Answer) (s : State) (blk : Block) (txs : List Tx) :
    drain rest (proceed .host n [] [] (s.within blk txs)) = s.finished blk txs (.ok .unit) rest :=
  drain_complete .host (.ok .unit) (s.within blk txs) rfl rest

section
variable (p : Port) (n : Nat) (ls : List Line) (s : State) {blk : Block} (txs : List Tx) (b d d' : Byte) (rest : List Answer)

/-- R100: while D7 is an input the poll comes first. -/
theorem drain_prologue_polling (hr : blk.ready = true) (hd : displayState s.cfg blk = .commandPolling) {busy : List Byte} {r : Byte}
    (hp : PollEnds s.cfg busy r) :
    drain (pollAnswers d (busy ++ [r]) ++ .ok d' :: rest) (proceed p n [] (.prologue :: ls) (s.within blk txs)) =
      drain rest (proceed p (n + 3 * busy.length + 5) [] ls
        (s.within (afterPoll s.cfg blk) (txs ++ wholePoll s.cfg blk (busy.length + 1)))) := by
  rw [drain_poll p ls busy r d d' rest n (s.within blk txs) hr hd hp, State.within, List.append_assoc]
  rfl

/-- R105: a command's frame. -/
theorem drain_command :
    drain (.ok d :: rest) (proceed p n [] (.emitByte false b :: ls) (s.within blk txs)) =
      drain rest (proceed p (n + 1) [] ls (s.within (afterCommand s.cfg blk b) (txs ++ [commandTx s.cfg blk b]))) := by
  rw [drain_emitByte, State.within, List.append_assoc]
  rfl

/-- R108: INSTR of a byte outside the slow set while D7 is an output. -/
theorem drain_instr_idle (hr : blk.ready = true) (hd : displayState s.cfg blk = .idle) (hb : isSlow s.cfg b = false) :
    drain (.ok d :: rest) (proceed p n [] (instrBody b ++ ls) (s.within blk txs)) =
      drain rest (proceed p (n + 1) [] ls (s.within (afterCommand s.cfg blk b) (txs ++ [commandTx s.cfg blk b]))) := by
  simp only [instrBody, List.cons_append, List.nil_append]
  rw [proceed_prologue_idle p n _ _ hr hd, drain_command, proceed_notSlow p (n + 1) ls b (s.within _ _) hb]

/-- R108: INSTR of a slow byte while D7 is an output. -/
theorem drain_instr_slow (hr : blk.ready = true) (hd : displayState s.cfg blk = .idle) (hb : isSlow s.cfg b = true) :
    drain (.ok d :: .ok d' :: rest) (proceed p n [] (instrBody b ++ ls) (s.within blk txs)) =
      drain rest (proceed p (n + 2) [] ls
        (s.within (afterSlow s.cfg (afterCommand s.cfg blk b)) (txs ++ [commandTx s.cfg blk b, slowTx s.cfg blk]))) := by
  simp only [instrBody, List.cons_append, List.nil_append]
  rw [proceed_prologue_idle p n _ _ hr hd, drain_command, drain_slow p (n + 1) ls b d' rest (s.within _ _) hb, State.within, List.append_assoc,
    List.append_assoc]
  rfl

/-- R109: a sequence while D7 is an output. -/
theorem drain_seq_idle (c : Bool) (vs : List Byte) {as : List Answer} (hr : blk.ready = true) (hd : displayState s.cfg blk = .idle)
    (hlen : as.length = (batches s.cfg (base s.cfg blk c) vs).length) (hok : allOk as = true) :
    drain (as ++ rest) (proceed p n [] (seqBody c vs ++ ls) (s.within blk txs)) =
      drain rest (proceed p (n + (batches s.cfg (base s.cfg blk c) vs).length) [] ls
        (s.within (afterFrames blk (batches s.cfg (base s.cfg blk c) vs))
          (txs ++ (batches s.cfg (base s.cfg blk c) vs).map frameTx))) := by
  simp only [seqBody, List.cons_append, List.nil_append]
  rw [proceed_prologue_idle p n _ _ hr hd, drain_emitSeq p n ls c vs as rest _ hlen hok, State.within, List.append_assoc]
  rfl

end

section
variable {s : State} {b d d' : Byte} {rest : List Answer}

theorem beginOp_instr_idle (h : ReadyIdle s) (hb : isSlow s.cfg b = false) (he : s.env = .ok d :: rest) :
    beginOp .host (instrBody b) s = s.finished (afterCommand s.cfg s.block b) [commandTx s.cfg s.block b] (.ok .unit) rest := by
  obtain ⟨-, hr, hd⟩ := h
  rw [beginOp_within, he, ← List.append_nil (instrBody b), drain_instr_idle .host 0 [] s [] b d rest hr hd hb, drain_finished]
  rfl

theorem beginOp_instr_slow (h : ReadyIdle s) (hb : isSlow s.cfg b = true) (he : s.env = .ok d :: .ok d' :: rest) :
    beginOp .host (instrBody b) s = s.finished (afterSlow s.cfg (afterCommand s.cfg s.block b))
      [commandTx s.cfg s.block b, slowTx s.cfg s.block] (.ok .unit) rest := by
  obtain ⟨-, hr, hd⟩ := h
  rw [beginOp_within, he, ← List.append_nil (instrBody b), drain_instr_slow .host 0 [] s [] b d d' rest hr hd hb, drain_finished]
  rfl

/-- R100: while D7 is an input the poll comes first, and the frame's base is the one after it. -/
theorem beginOp_instr_polling (h : ReadyPolling s) (hb : isSlow s.cfg b = false) {busy : List Byte} {r : Byte}
    (hp : PollEnds s.cfg busy r) (he : s.env = pollAnswers d (busy ++ [r]) ++ .ok d' :: .ok d' :: rest) :
    beginOp .host (instrBody b) s = s.finished (afterCommand s.cfg (afterPoll s.cfg s.block) b)
      (wholePoll s.cfg s.block (busy.length + 1) ++ [commandTx s.cfg (afterPoll s.cfg s.block) b]) (.ok .unit) rest := by
  obtain ⟨-, hr, hd⟩ := h
  rw [beginOp_within, he, instrBody, drain_prologue_polling .host 0 _ s [] d d' _ hr hd hp, drain_command,
    proceed_notSlow .host _ [] b (s.within _ _) hb, drain_finished]
  rfl

end

theorem isSlow_cmdClear (cfg : Config) : isSlow cfg cfg.cmdClear = true := by simp [isSlow]
theorem isSlow_cmdHome (cfg : Config) : isSlow cfg cfg.cmdHome = true := by simp [isSlow]

/-- Settles O25: the three bodies are one, and both commands are in the slow set. -/
theorem clearAndHome : Obligations.ClearAndHome := by
  intro s hq
  have hclear : exec .clear s = .next (beginOp .host (instrBody s.cfg.cmdClear) s) := exec_between (by simp) hq
  have hhome : exec .home s = .next (beginOp .host (instrBody s.cfg.cmdHome) s) := exec_between (by simp) hq
  have hinstr : ∀ b, exec (.instr b) s = .next (beginOp .host (instrBody b) s) := fun b => exec_between (by simp) hq
  refine ⟨hclear.trans (hinstr _).symm, hhome.trans (hinstr _).symm, fun d d' rest h he => ⟨?_, ?_⟩⟩
  · rw [hclear, beginOp_instr_slow h (isSlow_cmdClear _) he]; rfl
  · rw [hhome, beginOp_instr_slow h (isSlow_cmdHome _) he]; rfl

/-! ### The blue bit and the base mask (R65) -/

theorem base_afterCommand {cfg : Config} (h : cfg.wf = true) (blk : Block) (v : Byte) (c : Bool) :
    base cfg (afterCommand cfg blk v) c = base cfg blk c := base_after_frame h blk _ false c (lowNibble v) rfl

/-- The later of two commands overwrites what the first left in PORTB. -/
theorem afterCommand_afterCommand {cfg : Config} (h : cfg.wf = true) (blk : Block) (v w : Byte) :
    afterCommand cfg (afterCommand cfg blk v) w = afterCommand cfg blk w := by
  rw [afterCommand, base_afterCommand h]
  rfl

theorem base_afterPoll {cfg : Config} (h : cfg.wf = true) (blk : Block) (c : Bool) :
    base cfg (afterPoll cfg blk) c = base cfg blk c := base_congr (pollLo_blue h blk) c

theorem afterFrames_blue {cfg : Config} (h : cfg.wf = true) (blk : Block) (c : Bool) : ∀ (wrs : List (List Byte)) (b : Block),
    (∀ wr ∈ wrs, ∃ pre v, wr = pre ++ frame cfg (base cfg blk c) v) → b.portb &&& cfg.pinBlue = blk.portb &&& cfg.pinBlue →
    (afterFrames b wrs).portb &&& cfg.pinBlue = blk.portb &&& cfg.pinBlue := by
  intro wrs
  induction wrs with
  | nil => exact fun _ _ hb => hb
  | cons wr wrs ih =>
    intro b hwrs _
    obtain ⟨⟨pre, v, rfl⟩, hrest⟩ := List.forall_mem_cons.1 hwrs
    refine ih _ hrest ?_
    rw [setPortB_portb, frame_getLastD]
    exact base_flip_blue h blk c _

/-- The batches of a sequence leave the base mask. -/
theorem base_afterBatches {cfg : Config} (h : cfg.wf = true) (blk : Block) (c c' : Bool) (vs : List Byte) :
    base cfg (afterFrames blk (batches cfg (base cfg blk c) vs)) c' = base cfg blk c' :=
  base_congr (afterFrames_blue h blk c _ blk (batchesFrom_ends cfg _ vs []) rfl) c'

/-- A command after frames overwrites what they left in PORTB, and they change nothing else. -/
theorem afterCommand_afterFrames {cfg : Config} {blk : Block} {wrs : List (List Byte)}
    (hb : base cfg (afterFrames blk wrs) false = base cfg blk false) (v : Byte) :
    afterCommand cfg (afterFrames blk wrs) v = afterCommand cfg blk v := by
  obtain ⟨hpa, hd, hr, hs, hn, hm⟩ := afterFrames_frame wrs blk
  simp only [afterCommand, hb, hpa, hd, hr, hs, hn, hm]

/-! ### CREATECHAR -/

theorem proceed_pattern (p : Port) (n : Nat) (ls : List Line) (s : State) :
    proceed p n [] (.requirePattern 8 :: ls) s = proceed p n [] ls s := by simp [proceed_line, Line.perform, requirePattern]

theorem proceed_slot (p : Port) (n : Nat) (ls : List Line) {slot : Byte} (s : State)
    (h : s.cfg.slotPolicy = .mask ∨ slot.toNat ≤ 7) : proceed p n [] (.requireSlot slot :: ls) s = proceed p n [] ls s := by
  have hno : ¬(s.cfg.slotPolicy = .reject ∧ 7 < slot.toNat) := by
    rintro ⟨hp, hlt⟩
    obtain hm | hle := h
    · simp [hp] at hm
    · omega
  simp [proceed_line, Line.perform, requireSlot, hno]

/-- R112: CREATECHAR past its checks is a command, a sequence and a command. -/
theorem beginOp_createchar {s : State} {slot : Byte} {pat : List Byte} (hr : s.block.ready = true) (hlen : pat.length = 8)
    (hslot : s.cfg.slotPolicy = .mask ∨ slot.toNat ≤ 7) :
    beginOp .host (createcharBody s.cfg slot pat) s =
      beginOp .host (instrBody (cgramCmd s.cfg slot) ++ (seqBody true pat ++ (instrBody s.cfg.cmdCgramExit ++ []))) s := by
  rw [beginOp_within, beginOp_within]
  simp only [createcharBody, List.cons_append, List.nil_append, List.append_assoc, List.append_nil, hlen]
  rw [proceed_ready .host 0 _ (s.within s.block []) hr, proceed_pattern, proceed_slot .host 0 _ (s.within s.block []) hslot]

/-- R106: a sequence that fits one batch is one WR. -/
theorem batches_eight {cfg : Config} (h : cfg.wf = true) (hmax : cfg.batchMax = 32) (m : Byte) {vs : List Byte} (hlen : vs.length = 8) :
    batches cfg m vs = [vs.flatMap (frame cfg m)] := by
  obtain ⟨hflat, -, -, hcount⟩ := batchesCutTheFrames cfg m vs h
  have hone : (batches cfg m vs).length = 1 := by rw [hcount hmax, hlen]
  obtain ⟨wr, hwr⟩ := List.length_eq_one_iff.1 hone
  rw [hwr] at hflat ⊢
  rw [← hflat]
  simp

/-- R112: CREATECHAR while D7 is an output: D7 stays an output, and the base mask the same, up to the exit command. -/
theorem beginOp_createchar_idle {s : State} {slot d d1 d2 : Byte} {pat : List Byte} {as rest : List Answer} (h : ReadyIdle s)
    (hwf : s.cfg.wf = true) (hlen : pat.length = 8) (hslot : s.cfg.slotPolicy = .mask ∨ slot.toNat ≤ 7)
    (hcgram : isSlow s.cfg (cgramCmd s.cfg slot) = false) (hexit : isSlow s.cfg s.cfg.cmdCgramExit = true)
    (he : s.env = .ok d :: (as ++ .ok d1 :: .ok d2 :: rest)) (hok : allOk as = true)
    (has : as.length = (batches s.cfg (base s.cfg s.block true) pat).length) :
    beginOp .host (createcharBody s.cfg slot pat) s = s.finished (afterSlow s.cfg (afterCommand s.cfg s.block s.cfg.cmdCgramExit))
      (commandTx s.cfg s.block (cgramCmd s.cfg slot) :: (batches s.cfg (base s.cfg s.block true) pat).map frameTx ++
        [commandTx s.cfg s.block s.cfg.cmdCgramExit, slowTx s.cfg s.block]) (.ok .unit) rest := by
  obtain ⟨-, hr, hd⟩ := h
  obtain ⟨blk, hblk⟩ : ∃ blk, blk = afterCommand s.cfg s.block (cgramCmd s.cfg slot) := ⟨_, rfl⟩
  have hbase : ∀ c, base s.cfg blk c = base s.cfg s.block c := fun c => hblk ▸ base_afterCommand hwf s.block _ c
  obtain ⟨rows, hrows⟩ : ∃ rows, rows = batches s.cfg (base s.cfg s.block true) pat := ⟨_, rfl⟩
  have hrows' : batches s.cfg (base s.cfg blk true) pat = rows := by rw [hbase, hrows]
  obtain ⟨-, hddrb, hready, -⟩ := afterFrames_frame rows blk
  have hr' : blk.ready = true := hblk ▸ hr
  have hd' : displayState s.cfg blk = .idle := hblk ▸ hd
  have hbase' : base s.cfg (afterFrames blk rows) false = base s.cfg s.block false := by
    rw [← hrows', base_afterBatches hwf, hbase]
  have hexitTx : commandTx s.cfg (afterFrames blk rows) s.cfg.cmdCgramExit = commandTx s.cfg s.block s.cfg.cmdCgramExit := by
    rw [commandTx, hbase', commandTx]
  have hdir : slowTx s.cfg (afterFrames blk rows) = slowTx s.cfg s.block := by rw [slowTx, hddrb, hblk]; rfl
  rw [beginOp_createchar hr hlen hslot, beginOp_within, he, drain_instr_idle .host 0 _ s [] _ d _ hr hd hcgram, ← hblk,
    drain_seq_idle .host _ _ s _ _ true pat hr' hd' (by rw [hrows', hrows, has]) hok, hrows',
    drain_instr_slow .host _ _ s _ _ d1 d2 _ (hready.trans hr') ((displayState_congr hddrb).trans hd') hexit, drain_finished,
    afterCommand_afterFrames (hbase'.trans (hbase false).symm), hexitTx, hdir, ← hrows, hblk, afterCommand_afterCommand hwf]
  rfl

/-- Settles O26: the answers are those of the command, of the rows, and of the exit command and its direction write. -/
theorem createcharFromIdle : Obligations.CreatecharFromIdle := by
  intro s slot pat as rest h hwf hlen hslot hcgram hexit he hok rows has
  refine ⟨?_, fun hmax => batches_eight hwf hmax _ hlen⟩
  obtain ⟨d, as, rfl, hok, has⟩ := allOk_uncons (n := rows.length + 2) hok has
  obtain ⟨xs, ys, rfl, hxs, hys, hxlen, hylen⟩ := allOk_split hok has
  obtain ⟨d1, ys, rfl, hys, hylen⟩ := allOk_uncons (n := 1) hys hylen
  obtain ⟨d2, ys, rfl, -, hylen⟩ := allOk_uncons (n := 0) hys hylen
  obtain rfl := List.eq_nil_of_length_eq_zero hylen
  obtain ⟨hq, -⟩ := id h
  rw [exec_between (by simp) hq]
  exact congrArg _ (beginOp_createchar_idle (d := d) (d1 := d1) (d2 := d2) h hwf hlen hslot hcgram hexit (by simp [he]) hxs hxlen)

end Sys2Proof.Machine

namespace Sys2Proof.Machine

/-! ### INSTRs one after the other -/

theorem instrSequence_ended {b : Byte} {bs : List Byte} {s : State} (h : (beginOp .host (instrBody b) s).seq = .between) :
    instrSequence (b :: bs) s = instrSequence bs (beginOp .host (instrBody b) s) := by
  rw [instrSequence, h]

theorem instrSequence_suspended {b : Byte} {bs : List Byte} {s : State} {r : Running}
    (h : (beginOp .host (instrBody b) s).seq = .running r) :
    instrSequence (b :: bs) s =
      { beginOp .host (instrBody b) s with queued := bs.map .instr ++ (beginOp .host (instrBody b) s).queued } := by
  rw [instrSequence, h]

/-- One INSTR that ends with a result, and then the others. -/
theorem instrSequence_finished {b : Byte} {s : State} {blk : Block} {txs : List Tx} {o : OpResult} {rest : List Answer}
    (h : beginOp .host (instrBody b) s = s.finished blk txs o rest) (bs : List Byte) :
    instrSequence (b :: bs) s = instrSequence bs (s.finished blk txs o rest) := by
  rw [← h]
  exact instrSequence_ended (by rw [h]; rfl)

/-- INSTRs that all end, each performed from the state the one before it left. -/
theorem instrSequence_chain : ∀ (bs : List Byte) (f : Nat → State), (f 0).seq = .between →
    (∀ k b, bs[k]? = some b → exec (.instr b) (f k) = .next (f (k + 1)) ∧ (f (k + 1)).seq = .between) →
    instrSequence bs (f 0) = f bs.length := by
  intro bs
  induction bs with
  | nil => exact fun _ _ _ => rfl
  | cons b bs ih =>
    intro f hq hchain
    obtain ⟨hnext, hq'⟩ := hchain 0 b rfl
    rw [exec_between (by simp) hq] at hnext
    have h1 : beginOp .host (instrBody b) (f 0) = f 1 := Host.Outcome.next.inj hnext
    rw [instrSequence_ended (h1 ▸ hq'), h1]
    exact ih (fun k => f (k + 1)) hq' fun k c hk => hchain (k + 1) c hk

/-- R15: an operation of the Host that has ended has given one result, and one in progress none. -/
theorem beginOp_results (body : List Line) (s : State) :
    ((beginOp .host body s).seq = .between → ∃ o, (beginOp .host body s).results = s.results ++ [o]) ∧
      ∀ r, (beginOp .host body s).seq = .running r → (beginOp .host body s).results = s.results := by
  have halong := beginOp_alongside (SameLines.refl s.cfg body) 0 s.results
  generalize beginOp .host body s = t, drain s.env _ = t' at halong ⊢
  cases halong with
  | running _ hq _ _ hres => exact ⟨fun h => by simp [hq] at h, fun _ _ => hres⟩
  | ended hq hres => exact ⟨fun _ => ⟨_, hres⟩, fun r h => by simp [hq] at h⟩

/-- R55: INSTRs of which one is suspended: those before it have given their results, and those after it wait first. -/
theorem instrSequence_running : ∀ (bs : List Byte) (s : State) {r : Running}, s.seq = .between → (instrSequence bs s).seq = .running r →
    ∃ k, k < bs.length ∧ (instrSequence bs s).queued = (bs.drop (k + 1)).map .instr ++ s.queued ∧
      (instrSequence bs s).results.length = s.results.length + k := by
  intro bs
  induction bs with
  | nil => intro s r hq h; simp [instrSequence, hq] at h
  | cons b bs ih =>
    intro s r hq h
    obtain ⟨hended, hrunning⟩ := beginOp_results (instrBody b) s
    have hqueued := (beginOp_kept .host (instrBody b) s).queued
    cases hq1 : (beginOp .host (instrBody b) s).seq with
    | running r1 =>
      rw [instrSequence_suspended hq1]
      exact ⟨0, by simp, by simp [hqueued], by simp [hrunning r1 hq1]⟩
    | between =>
      rw [instrSequence_ended hq1] at h ⊢
      obtain ⟨o, ho⟩ := hended hq1
      obtain ⟨k, hk, hwait, hres⟩ := ih _ hq1 h
      refine ⟨k + 1, by simpa using hk, by simpa [hqueued] using hwait, ?_⟩
      rw [hres, ho]
      simp only [List.length_append, List.length_singleton]
      omega

/-- R143: before INIT each INSTR raises NotInitialized and does nothing else. -/
theorem beginOp_instr_notReady {s : State} (hr : s.block.ready = false) (b : Byte) :
    beginOp .host (instrBody b) s = s.finished s.block [] (.err .notInitialized) s.env := by
  rw [beginOp_within, instrBody, proceed_prologue_notReady .host 0 _ (s.within s.block []) hr, drain_complete _ _ _ rfl]
  rfl

theorem instrSequence_notReady : ∀ (bs : List Byte) {s : State}, s.seq = .between → s.block.ready = false →
    instrSequence bs s = { s with results := s.results ++ List.replicate bs.length (.err .notInitialized) } := by
  intro bs
  induction bs with
  | nil => intro s hq hr; simp [instrSequence]
  | cons b bs ih =>
    intro s hq hr
    have hrest := ih (s := s.finished s.block [] (.err .notInitialized) s.env) rfl hr
    rw [instrSequence_finished (beginOp_instr_notReady hr b), hrest]
    simp [State.finished, List.replicate_succ, hq]

/-- Settles O31, a clause for each way the eight INSTRs can go. -/
theorem lcdbootExpands : Obligations.LcdbootExpands := by
  intro s hq
  rw [exec_lcdboot_between hq]
  refine ⟨fun f hf hchain => ?_, fun t r ht hr => ?_, fun hr => congrArg _ (instrSequence_notReady lcdbootBytes hq hr)⟩
  · subst hf
    exact congrArg _ (instrSequence_chain lcdbootBytes f hq hchain)
  · obtain rfl := Host.Outcome.next.inj ht
    exact instrSequence_running lcdbootBytes s hq hr

/-! ### LCDBOOT after INIT -/

/-- `s` after `k` operations of the Host that succeeded, which together emitted `txs`. -/
def State.succeeded (s : State) (k : Nat) (blk : Block) (txs : List Tx) (rest : List Answer) : State :=
  { s with block := blk, seq := .between, env := rest, trace := s.trace ++ txs, results := s.results ++ List.replicate k (.ok .unit) }

section
variable (s : State) (k l : Nat) (blk blk' : Block) (txs txs' : List Tx) (as rest : List Answer)

@[simp] theorem finished_cfg (o : OpResult) : (s.finished blk txs o rest).cfg = s.cfg := rfl
@[simp] theorem finished_block (o : OpResult) : (s.finished blk txs o rest).block = blk := rfl
@[simp] theorem succeeded_cfg : (s.succeeded k blk txs rest).cfg = s.cfg := rfl
@[simp] theorem succeeded_block : (s.succeeded k blk txs rest).block = blk := rfl

theorem finished_succeeded :
    (s.finished blk txs (.ok .unit) as).succeeded k blk' txs' rest = s.succeeded (k + 1) blk' (txs ++ txs') rest := by
  simp [State.finished, State.succeeded, List.replicate_succ]

theorem succeeded_succeeded :
    (s.succeeded k blk txs as).succeeded l blk' txs' rest = s.succeeded (k + l) blk' (txs ++ txs') rest := by
  simp only [State.succeeded, List.append_assoc, List.replicate_append_replicate]

end

theorem and_not_or_self (a m : Byte) : (a &&& ~~~m) ||| m = a ||| m := by
  ext i hi
  simp only [BitVec.getElem_and, BitVec.getElem_or, BitVec.getElem_not]
  cases a[i] <;> cases m[i] <;> rfl

/-- R65: a command's frame depends on the base mask alone. -/
theorem commandTx_congr {cfg : Config} {blk blk' : Block} (h : base cfg blk' false = base cfg blk false) :
    commandTx cfg blk' = commandTx cfg blk := by
  funext v
  rw [commandTx, h, commandTx]

theorem slowTx_afterPoll (cfg : Config) (blk : Block) : slowTx cfg (afterPoll cfg blk) = slowTx cfg blk := by
  rw [slowTx, afterPoll, and_not_or_self, slowTx]

theorem afterSlow_afterPoll {cfg : Config} (h : cfg.wf = true) (blk : Block) (w : Byte) :
    afterSlow cfg (afterCommand cfg (afterPoll cfg blk) w) = afterSlow cfg (afterCommand cfg blk w) := by
  rw [afterCommand, base_afterPoll h]
  simp only [afterSlow, afterCommand, afterPoll, and_not_or_self]

theorem slowTx_afterSlow (cfg : Config) (blk : Block) : slowTx cfg (afterSlow cfg blk) = slowTx cfg blk := by
  rw [slowTx, afterSlow, BitVec.or_assoc, BitVec.or_self, slowTx]

theorem afterSlow_afterSlow {cfg : Config} (h : cfg.wf = true) (blk : Block) (v w : Byte) :
    afterSlow cfg (afterCommand cfg (afterSlow cfg (afterCommand cfg blk v)) w) = afterSlow cfg (afterCommand cfg blk w) := by
  have hbase : base cfg (afterSlow cfg (afterCommand cfg blk v)) false = base cfg blk false := base_afterCommand h blk v false
  rw [afterCommand, hbase]
  simp only [afterSlow, afterCommand, BitVec.or_assoc, BitVec.or_self]

/-- Commands outside the slow set and then a slow one, D7 being an output. -/
theorem instrSequence_idle {w d : Byte} (more : List Byte) (rest : List Answer) : ∀ (vs : List Byte) {s : State}, ReadyIdle s →
    s.cfg.wf = true → (∀ v ∈ vs, isSlow s.cfg v = false) → isSlow s.cfg w = true →
    s.env = List.replicate (vs.length + 2) (.ok d) ++ rest →
    instrSequence (vs ++ w :: more) s = instrSequence more (s.succeeded (vs.length + 1) (afterSlow s.cfg (afterCommand s.cfg s.block w))
      ((vs ++ [w]).map (commandTx s.cfg s.block) ++ [slowTx s.cfg s.block]) rest) := by
  intro vs
  induction vs with
  | nil => intro s h hwf _ hw he; exact instrSequence_finished (beginOp_instr_slow h hw he) more
  | cons v vs ih =>
    intro s h hwf hvs hw he
    obtain ⟨hv, hvs⟩ := List.forall_mem_cons.1 hvs
    obtain ⟨-, hr, hd⟩ := id h
    have he' : s.env = .ok d :: (List.replicate (vs.length + 2) (.ok d) ++ rest) := he
    have hstep := beginOp_instr_idle h hv he'
    have hrest := ih (s := s.finished (afterCommand s.cfg s.block v) [commandTx s.cfg s.block v] (.ok .unit)
      (List.replicate (vs.length + 2) (.ok d) ++ rest)) ⟨rfl, hr, hd⟩ hwf hvs hw rfl
    rw [List.cons_append, instrSequence_finished hstep, hrest, finished_succeeded, finished_cfg, finished_block,
      afterCommand_afterCommand hwf, commandTx_congr (base_afterCommand hwf _ v false)]
    rfl

/-- The same while D7 is an input: the first command polls. -/
theorem instrSequence_polling {v w d r : Byte} {busy : List Byte} (vs more : List Byte) (rest : List Answer) {s : State}
    (h : ReadyPolling s) (hwf : s.cfg.wf = true) (hv : isSlow s.cfg v = false) (hvs : ∀ v ∈ vs, isSlow s.cfg v = false)
    (hw : isSlow s.cfg w = true) (hp : PollEnds s.cfg busy r)
    (he : s.env = pollAnswers d (busy ++ [r]) ++ List.replicate (vs.length + 4) (.ok d) ++ rest) :
    instrSequence (v :: (vs ++ w :: more)) s =
      instrSequence more (s.succeeded (vs.length + 2) (afterSlow s.cfg (afterCommand s.cfg s.block w))
        (wholePoll s.cfg s.block (busy.length + 1) ++ (v :: (vs ++ [w])).map (commandTx s.cfg s.block) ++ [slowTx s.cfg s.block])
        rest) := by
  obtain ⟨-, hr, -⟩ := id h
  have hd : displayState s.cfg (afterCommand s.cfg (afterPoll s.cfg s.block) v) = .idle := displayState_afterPoll s.cfg s.block
  have hstep := beginOp_instr_polling (d' := d) (rest := List.replicate (vs.length + 2) (.ok d) ++ rest) h hv hp
    (he.trans (List.append_assoc _ _ _))
  have hrest := instrSequence_idle (d := d) more rest vs (s := s.finished (afterCommand s.cfg (afterPoll s.cfg s.block) v)
      (wholePoll s.cfg s.block (busy.length + 1) ++ [commandTx s.cfg (afterPoll s.cfg s.block) v]) (.ok .unit)
      (List.replicate (vs.length + 2) (.ok d) ++ rest)) ⟨rfl, hr, hd⟩ hwf hvs hw rfl
  have hdir : slowTx s.cfg (afterCommand s.cfg (afterPoll s.cfg s.block) v) = slowTx s.cfg s.block := slowTx_afterPoll s.cfg s.block
  rw [instrSequence_finished hstep, hrest, finished_succeeded, finished_cfg, finished_block, afterCommand_afterCommand hwf,
    afterSlow_afterPoll hwf, commandTx_congr (base_afterCommand hwf _ v false), commandTx_congr (base_afterPoll hwf s.block false), hdir]
  simp only [List.map_cons, List.append_assoc, List.cons_append, List.nil_append]

/-- Settles O30: LCDBOOT's bytes are twice three commands and a slow one, which leaves D7 an input. -/
theorem lcdbootAfterInit : Obligations.LcdbootAfterInit := by
  intro s busy1 busy2 r1 r2 d rest h hwf hclear hhome hp1 hp2 he f dd blk1
  obtain ⟨hq, hr, -⟩ := id h
  have hslow : ∀ v, isSlow s.cfg v = (v == 0x01 || v == 0x02) := fun v => by rw [isSlow, hclear, hhome]
  have hfirst := instrSequence_polling (v := 0x33) (w := 0x01) [0x32, 0x28] [0x14, 0x06, 0x0C, 0x02] _ h hwf (hslow _)
    (by simp [hslow]) (hslow _) hp1 he
  obtain ⟨t, ht⟩ : ∃ t, t = s.succeeded 4 (afterSlow s.cfg (afterCommand s.cfg s.block 0x01))
      (wholePoll s.cfg s.block (busy1.length + 1) ++ [0x33, 0x32, 0x28, 0x01].map (commandTx s.cfg s.block) ++ [slowTx s.cfg s.block])
      (pollAnswers d (busy2 ++ [r2]) ++ List.replicate 6 (.ok d) ++ rest) := ⟨_, rfl⟩
  have hcfg : t.cfg = s.cfg := ht ▸ rfl
  have hblk : t.block = afterSlow s.cfg (afterCommand s.cfg s.block 0x01) := ht ▸ rfl
  have ht2 : ReadyPolling t := ht ▸ ⟨rfl, hr, displayState_slow hwf _ _⟩
  have hsecond := instrSequence_polling (v := 0x14) (w := 0x02) (d := d) [0x06, 0x0C] [] rest ht2 (hcfg ▸ hwf) (hcfg ▸ hslow _)
    (by simp [hcfg, hslow]) (hcfg ▸ hslow _) (hcfg ▸ hp2) (by rw [ht]; rfl)
  have hbase : base s.cfg (afterSlow s.cfg (afterCommand s.cfg s.block 0x01)) false = base s.cfg s.block false :=
    base_afterCommand hwf s.block 0x01 false
  have hdir : slowTx s.cfg (afterSlow s.cfg (afterCommand s.cfg s.block 0x01)) = slowTx s.cfg s.block := slowTx_afterSlow _ _
  rw [exec_lcdboot_between hq]
  refine congrArg _ (hfirst.trans ?_)
  rw [hcfg, hblk, instrSequence, commandTx_congr hbase, hdir, afterSlow_afterSlow hwf, ht, succeeded_succeeded] at hsecond
  refine hsecond.trans ?_
  simp only [State.succeeded, hq]
  rfl

end Sys2Proof.Machine

namespace Sys2Proof.Machine

/-! ### BACKLIGHT -/

/-- R82: the blue pin is not E. -/
theorem colorPortB_e {cfg : Config} (h : cfg.wf = true) (pb color : Byte) :
    anyBit (colorPortB cfg pb color) cfg.pinE = anyBit pb cfg.pinE := by
  obtain ⟨-, -, ⟨-, -, -, -, hblue⟩, -⟩ := wf_disjoint h
  have hkeep : (pb &&& ~~~cfg.pinBlue) &&& cfg.pinE = pb &&& cfg.pinE := by
    have hmask : ~~~cfg.pinBlue &&& cfg.pinE = cfg.pinE := by
      rw [BitVec.and_comm]
      refine (eq_and_of_and_not_eq_zero ?_).symm
      rw [BitVec.not_not, hblue]
    rw [BitVec.and_assoc, hmask]
  have hlow := anyBit_eq_false_iff.2 (maskIf_and_eq_zero (anyBit (invertedColor color) cfg.colorBlue) (and_eq_zero_comm hblue))
  rw [colorPortB, anyBit_or, hlow, Bool.or_false, anyBit, hkeep, anyBit]

/-- A write of port A makes no strobe. -/
theorem strobes_wr_gpioa {cfg : Config} {e : Expander} (h : Mapped cfg e) (v : Byte) (ts : List Tx) :
    strobes cfg e (.wr .gpioa [v] :: ts) = strobes cfg { e with pointer := cfg.regGpioa, olata := v } ts := by
  have hduring : e.during cfg (.wr .gpioa [v]) = [{ e with pointer := cfg.regGpioa, olata := v }] :=
    congrArg (fun x => [x]) (h.apply_wr_gpioa v)
  rw [strobes, Expander.history, h.apply_wr_gpioa, hduring]
  simp [strobesFrom, strobes]

/-- R120: where E keeps its level in port B's byte, the two writes make no strobe. -/
theorem strobes_ports {cfg : Config} {e : Expander} (h : Mapped cfg e) {pa pb : Byte} (he : anyBit pb cfg.pinE = anyBit e.olatb cfg.pinE) :
    strobes cfg e [.wr .gpioa [pa], .wr .gpiob [pb]] = [] := by
  rw [strobes_wr_gpioa h, strobes_wr_gpiob (e := { e with pointer := cfg.regGpioa, olata := pa }) (h.of_iocon rfl)]
  simp only [latchStrobes, he]
  cases anyBit e.olatb cfg.pinE <;> rfl

theorem proceed_colorA (p : Port) (n : Nat) (color : Byte) (ls : List Line) (s : State) :
    proceed p n [] (.colorA color :: ls) s = emit p n (.writeGpioA (colorPortA s.cfg s.block.porta color)) [] ls s := by
  simp [proceed_line, Line.perform]

theorem proceed_colorB (p : Port) (n : Nat) (color : Byte) (ls : List Line) (s : State) :
    proceed p n [] (.colorB color :: ls) s = emit p n (.writeGpioB [colorPortB s.cfg s.block.portb color]) [] ls s := by
  simp [proceed_line, Line.perform]

/-- A bus step answered ok that is followed by the body's next line. -/
theorem drain_act_ok (p : Port) (n : Nat) (ls : List Line) {d : Byte} (rest : List Answer) (s : State) {a : Act} {blk blk' : Block}
    (txs : List Tx) (h : a.onOk s.cfg blk d = .go blk' []) :
    drain (.ok d :: rest) (emit p n a [] ls (s.within blk txs)) =
      drain rest (proceed p (n + 1) [] ls (s.within blk' (txs ++ [a.tx]))) := by
  rw [drain_running (emit_seq _ _ _ _ _ _), answer_go h]
  refine congrArg (drain rest) (proceed_congr p (n + 1) [] ls ?_)
  simp [State.within, emit]

/-- R138: a bus step answered `error`. -/
theorem drain_act_error (n : Nat) (as : List Act) (ls : List Line) (rest : List Answer) (s : State) (a : Act) (blk : Block) (txs : List Tx) :
    drain (.error :: rest) (emit .host n a as ls (s.within blk txs)) =
      s.finished { blk with stale := true } (txs ++ [a.tx]) (.err (.transportError a.tx (n + 1))) rest := by
  rw [drain_error .host n a as ls rest _ rfl, State.within, List.append_assoc]
  rfl

/-- Settles O38: the two lines of the body are a bus step each, and neither changes E. -/
theorem backlightWrites : Obligations.BacklightWrites := by
  intro s color d d' rest hq hr pa pb
  have hbody : exec (.backlight color) s =
      .next (drain s.env (emit .host 0 (.writeGpioA pa) [] [.colorB color] (s.within s.block []))) := by
    rw [exec_between (by simp) hq]
    refine congrArg _ ((beginOp_ready .host _ hr).trans ?_)
    rw [beginOp_within, proceed_colorA]
    rfl
  have hB : ∀ as, drain (.ok d :: as) (emit .host 0 (.writeGpioA pa) [] [.colorB color] (s.within s.block [])) =
      drain as (emit .host 1 (.writeGpioB [pb]) [] [] (s.within { s.block with porta := pa } [.wr .gpioa [pa]])) := by
    intro as
    rw [drain_act_ok .host 0 _ as s [] rfl, proceed_colorB]
    rfl
  refine ⟨fun he => ?_, fun he => ?_, fun he => ?_, fun e hwf hm he => strobes_ports hm (he ▸ colorPortB_e hwf _ color)⟩
  · rw [hbody, he, hB, drain_act_ok .host 1 [] rest s _ rfl, drain_finished]
    rfl
  · rw [hbody, he, hB, drain_act_error]
    rfl
  · rw [hbody, he, drain_act_error]
    rfl

end Sys2Proof.Machine

namespace Sys2Proof.Machine

/-! ### INIT's three writes -/

/-- R94: the register and the bytes of each write of INIT. -/
def initWrites (cfg : Config) : List (Reg × List Byte) :=
  [(.ioconB1, [0x00]), (.initBase, cfg.initBlock), (.ioconB0, [cfg.ioconRun])]

/-- INIT's writes as lines of its body. -/
def writeLines (ws : List (Reg × List Byte)) : List Line := ws.map fun w => .busWR w.1 w.2

/-- INIT's writes as transactions. -/
def writeTxs (ws : List (Reg × List Byte)) : List Tx := ws.map fun w => .wr w.1 w.2

/-- INIT performed up to its first write. -/
theorem exec_init {s : State} (hq : s.seq = .between) :
    exec .init s = .next (drain s.env (proceed .host 0 [] (writeLines (initWrites s.cfg) ++ [.finishInit])
      (s.within { s.block with ready := false } []))) := by
  rw [exec_between (by simp) hq, beginOp_within]
  rfl

theorem proceed_busWR (p : Port) (n : Nat) (w : Reg × List Byte) (ws : List (Reg × List Byte)) (ls : List Line) (s : State) :
    proceed p n [] (writeLines (w :: ws) ++ ls) s = emit p n (.busWR w.1 w.2) [] (writeLines ws ++ ls) s := by
  simp [writeLines, proceed_line, Line.perform]

/-- R89, R94: writes of INIT answered ok are sent in order, and write no shadow. -/
theorem drain_writes (p : Port) (ls : List Line) (s : State) (blk : Block) (rest : List Answer) :
    ∀ (ws : List (Reg × List Byte)) (as : List Answer) (n : Nat) (txs : List Tx), as.length = ws.length → allOk as = true →
      drain (as ++ rest) (proceed p n [] (writeLines ws ++ ls) (s.within blk txs)) =
        drain rest (proceed p (n + ws.length) [] ls (s.within blk (txs ++ writeTxs ws))) := by
  intro ws
  induction ws with
  | nil =>
    intro as n txs hlen _
    obtain rfl := List.eq_nil_of_length_eq_zero hlen
    simp [writeLines, writeTxs]
  | cons w ws ih =>
    intro as n txs hlen hok
    obtain ⟨d, as, rfl, hok, hlen⟩ := allOk_uncons hok hlen
    rw [proceed_busWR, List.cons_append, drain_act_ok p n _ _ s txs rfl, ih as (n + 1) _ hlen hok]
    simp [writeTxs, Act.tx, Nat.add_assoc, Nat.add_comm 1]

/-- R138: a write of INIT, those before it answered ok, is answered `error`. -/
theorem drain_writes_error (ls : List Line) (s : State) (blk : Block) (rest : List Answer) (ws ws' : List (Reg × List Byte))
    (w : Reg × List Byte) {as : List Answer} (hlen : as.length = ws.length) (hok : allOk as = true) :
    drain (as ++ .error :: rest) (proceed .host 0 [] (writeLines (ws ++ w :: ws') ++ ls) (s.within blk [])) =
      s.finished { blk with stale := true } (writeTxs (ws ++ [w])) (.err (.transportError (.wr w.1 w.2) (ws.length + 1))) rest := by
  have hsplit : writeLines (ws ++ w :: ws') ++ ls = writeLines ws ++ (writeLines (w :: ws') ++ ls) := by simp [writeLines]
  rw [hsplit, drain_writes .host _ s blk _ ws as 0 [] hlen hok, proceed_busWR, drain_act_error]
  simp [writeTxs, Act.tx]

/-- R94, R133: S after INIT, field by field. -/
theorem initialised_eq (cfg : Config) (blk : Block) : initialised cfg blk =
    { porta := cfg.portaInit
      portb := cfg.portbInit
      ddrb := cfg.ddrbInit
      ready := true
      stale := false
      notifier := if 0 < cfg.interval ∧ blk.notifier = .unarmed then .armed else blk.notifier
      prevMask := if 0 < cfg.interval ∧ blk.notifier = .unarmed then 0x00 else blk.prevMask } := by
  unfold initialised armNotifier
  split <;> rfl

/-- Settles O12: three writes that leave the block, and then the last line's assignments. -/
theorem initCompletes : Obligations.InitCompletes := by
  intro s as rest hq he hlen hok
  have hlast : ∀ txs, drain rest (proceed .host 3 [] [.finishInit] (s.within { s.block with ready := false } txs)) =
      s.finished (initialised s.cfg { s.block with ready := false }) txs (.ok .unit) rest := fun txs =>
    drain_finished 3 rest s _ txs
  rw [exec_init hq, he, drain_writes .host _ s _ rest (initWrites s.cfg) as 0 [] hlen hok]
  refine congrArg _ ((hlast _).trans ?_)
  rw [initialised_eq]
  rfl

/-- Settles O13: the writes before the failing one leave the block but for `ready`, which INIT's first line has cleared. -/
theorem failedInit : Obligations.FailedInit := by
  intro s as rest k hq he hlen hok
  have hk : (k : Nat) < (initWrites s.cfg).length := k.isLt
  have hws : initWrites s.cfg =
      (initWrites s.cfg).take k ++ (initWrites s.cfg)[(k : Nat)] :: (initWrites s.cfg).drop (k + 1) := by simp
  have htake : (initWrites s.cfg).take k ++ [(initWrites s.cfg)[(k : Nat)]] = (initWrites s.cfg).take (k + 1) := by simp
  have hlen' : ((initWrites s.cfg).take k).length = k := List.length_take_of_le hk.le
  rw [exec_init hq, he, hws, drain_writes_error _ s _ rest _ _ _ (hlen.trans hlen'.symm) hok, htake, hlen', writeTxs, List.map_take]
  fin_cases k <;> rfl

end Sys2Proof.Machine

namespace Sys2Proof.Machine

/-! ### What INIT leaves -/

/-- The shadows, the notifier and its mask are those of `b`. -/
structure InitUntouched (b c : Block) : Prop where
  porta : c.porta = b.porta
  portb : c.portb = b.portb
  ddrb : c.ddrb = b.ddrb
  notifier : c.notifier = b.notifier
  prevMask : c.prevMask = b.prevMask

/-- What INIT leaves of the block it began with: the notifier where it arms nothing, and all it has not yet assigned. -/
structure InitFrame (cfg : Config) (b c : Block) : Prop where
  armsNothing : b.notifier ≠ .unarmed ∨ cfg.interval = 0 → c.notifier = b.notifier ∧ c.prevMask = b.prevMask
  notReady : c.ready = false → InitUntouched b c

theorem InitUntouched.initFrame {cfg : Config} {b c : Block} (h : InitUntouched b c) : InitFrame cfg b c :=
  ⟨fun _ => ⟨h.notifier, h.prevMask⟩, fun _ => h⟩

/-- R133: INIT arms an Unarmed notifier only, and only with an interval. -/
theorem InitUntouched.initialised {cfg : Config} {b c : Block} (h : InitUntouched b c) : InitFrame cfg b (initialised cfg c) := by
  refine ⟨fun hno => ?_, fun hr => by simp [Machine.initialised] at hr⟩
  have hskip : ¬(0 < cfg.interval ∧ c.notifier = .unarmed) := by
    rintro ⟨hpos, hu⟩
    obtain hne | hzero := hno
    · exact hne (h.notifier ▸ hu)
    · omega
  rw [Machine.initialised, armNotifier, if_neg hskip]
  exact ⟨h.notifier, h.prevMask⟩

/-- Before its last line INIT leaves the block but for `ready`, and after it nothing is to come. -/
theorem initFrame_keeps (cfg : Config) (b : Block) :
    Keeps cfg (fun c _ acts ls =>
        (InitUntouched b c ∧ (∀ a ∈ acts, isBusWR a = true) ∧ (ls = initBody cfg ∨ initLines ls = true)) ∨
          (InitFrame cfg b c ∧ acts = [] ∧ ls = []))
      (fun c _ => InitFrame cfg b c) where
  line := by
    rintro c tr l ls (⟨h, -, hls⟩ | ⟨-, -, hls⟩)
    · obtain hls | hls := hls
      · obtain ⟨rfl, rfl⟩ := List.cons.inj hls
        exact .inl ⟨⟨h.porta, h.portb, h.ddrb, h.notifier, h.prevMask⟩, nofun, .inr rfl⟩
      · cases l
        case busWR => exact .inl ⟨h, by simp [isBusWR], .inr (by simpa [initLines] using hls)⟩
        case finishInit =>
          obtain rfl : ls = [] := by cases ls <;> simp_all [initLines]
          exact .inr ⟨h.initialised, rfl, rfl⟩
        all_goals simp [initLines] at hls
    · simp at hls
  stop := by
    rintro c tr (⟨h, -⟩ | ⟨h, -⟩)
    · exact h.initFrame
    · exact h
  act := by
    rintro c tr a as ls d (⟨h, hacts, hls⟩ | ⟨-, hacts, -⟩)
    · obtain ⟨ha, has⟩ := List.forall_mem_cons.1 hacts
      cases a
      case busWR => exact .inl ⟨h, has, hls⟩
      all_goals simp [isBusWR] at ha
    · simp at hacts
  error := by
    rintro c tr a as ls (⟨h, -⟩ | ⟨-, hacts, -⟩)
    · exact InitUntouched.initFrame ⟨h.porta, h.portb, h.ddrb, h.notifier, h.prevMask⟩
    · simp at hacts

/-- A body that begins in the claim keeps it, whatever the answers. -/
theorem Keeps.beginOp {cfg : Config} {R : Block → List Tx → List Act → List Line → Prop} {F : Block → List Tx → Prop}
    (h : Keeps cfg R F) (p : Port) (body : List Line) {s : State} (hcfg : s.cfg = cfg) (hR : R s.block s.trace [] body) :
    Holds R F (Machine.beginOp p body s) :=
  (Keeps.paired_self _).1 (h.simulates.beginOp p body hcfg ⟨rfl, hR⟩)

theorem init_initFrame (s : State) : InitFrame s.cfg s.block (beginOp .host (initBody s.cfg) s).block := by
  have hstart : InitUntouched s.block s.block := ⟨rfl, rfl, rfl, rfl, rfl⟩
  refine ((initFrame_keeps s.cfg s.block).beginOp .host _ rfl (.inl ⟨hstart, nofun, .inl rfl⟩)).everywhere ?_
  rintro c tr acts ls (⟨h, -⟩ | ⟨h, -⟩)
  · exact h.initFrame
  · exact h

/-! ### What LCDBOOT leaves -/

/-- R84: each byte of LCDBOOT is an INSTR. -/
theorem isLcd_of_mem_expand_lcdboot {j : Instr} (h : j ∈ Instr.expand .lcdboot) : j.isLcd = true := by
  obtain ⟨hj, hne⟩ | ⟨x, rfl⟩ := mem_expand h
  · exact absurd rfl hne
  · rfl

/-- LCDBOOT leaves of S what each of its INSTRs leaves. -/
theorem lcdboot_lcdFrame {s t : State} (hq : s.seq = .between) (ht : exec .lcdboot s = .next t) : LcdFrame s.cfg s.block t.block := by
  have hself : LcdFrame s.cfg s.block s.block := ⟨rfl, rfl, rfl, rfl, rfl, id, fun _ => rfl⟩
  exact ((lcdFrame_keeps s.cfg s.block).exec (i := .lcdboot) rfl
    (fun hF j hj => ⟨hF, nofun, bodyOf_isLcdLine s.cfg (isLcd_of_mem_expand_lcdboot hj)⟩) ((holds_between hq).2 hself) ht).everywhere
    fun h => h.1

/-- INSTRs one after the other leave the stream, the draws and the event port, and put what still waits of them before what waited. -/
theorem instrSequence_leaves : ∀ (bs : List Byte) (s : State),
    s.queued <:+ (instrSequence bs s).queued ∧ (instrSequence bs s).input = s.input ∧ (instrSequence bs s).offset = s.offset ∧
      (instrSequence bs s).draws = s.draws ∧ (instrSequence bs s).events = s.events := by
  intro bs
  induction bs with
  | nil => exact fun s => ⟨List.suffix_refl _, rfl, rfl, rfl, rfl⟩
  | cons b bs ih =>
    intro s
    have hk := beginOp_kept .host (instrBody b) s
    have hevents : (beginOp .host (instrBody b) s).events = s.events := beginOp_otherResults .host _ s
    cases hq : (beginOp .host (instrBody b) s).seq with
    | between =>
      rw [instrSequence_ended hq, ← hk.queued, ← hk.input, ← hk.offset, ← hk.draws, ← hevents]
      exact ih _
    | running r =>
      rw [instrSequence_suspended hq]
      exact ⟨hk.queued ▸ List.suffix_append _ _, hk.input, hk.offset, hk.draws, hevents⟩

/-- Settles O50: INIT by the claim above and what every operation keeps, LCDBOOT by what its INSTRs leave. -/
theorem initAndLcdbootFrame : Obligations.InitAndLcdbootFrame := by
  intro s t hq
  refine ⟨fun ht => ?_, fun ht => ?_⟩
  · rw [exec_between (by simp) hq] at ht
    obtain rfl := Host.Outcome.next.inj ht
    have hk := beginOp_kept .host (initBody s.cfg) s
    obtain ⟨harmsNothing, hnotReady⟩ := init_initFrame s
    exact ⟨hk.cfg, hk.queued, hk.input, hk.offset, hk.draws, beginOp_otherResults .host _ s, harmsNothing, fun hr =>
      have h := hnotReady hr
      ⟨h.porta, h.portb, h.ddrb, h.notifier, h.prevMask⟩⟩
  · have hframe := lcdboot_lcdFrame hq ht
    have hcfg := exec_cfg ht
    rw [exec_lcdboot_between hq] at ht
    obtain rfl := Host.Outcome.next.inj ht
    obtain ⟨hqueued, hinput, hoffset, hdraws, hevents⟩ := instrSequence_leaves lcdbootBytes s
    exact ⟨hcfg, hframe.porta, hframe.ready, hframe.notifier, hframe.prevMask, hframe.ddrb, hframe.blue, hframe.stale, hqueued,
      hinput, hoffset, hdraws, hevents⟩

end Sys2Proof.Machine

namespace Sys2Proof.Machine

/-! ### A poll that fails -/

/-- R114: a text has a first line, the empty text too. -/
theorem splitLines_ne_nil (sep : Byte) : ∀ t : List Byte, splitLines sep t ≠ []
  | [] => by simp [splitLines]
  | b :: t => by
    unfold splitLines
    split
    · simp
    · split <;> simp

/-- R100: an LCD operation past its checks begins with the prologue. -/
theorem beginOp_lcd_prologue {s : State} {i : Instr} (hr : s.block.ready = true) (hi : i.isLcd = true)
    (hchecks : ∀ slot pat, i = .createchar slot pat → pat.length = 8 ∧ (s.cfg.slotPolicy = .mask ∨ slot.toNat ≤ 7)) :
    ∃ ls, beginOp (portOf i) (bodyOf s.cfg i) s = beginOp .host (.prologue :: ls) s := by
  have htext : ∀ t, ∃ ls, textLines s.cfg (splitLines s.cfg.lineSep t) = .prologue :: ls := by
    intro t
    obtain ⟨l0, more, hlines⟩ := List.exists_cons_of_ne_nil (splitLines_ne_nil s.cfg.lineSep t)
    rw [hlines]
    cases more with
    | nil => exact ⟨_, rfl⟩
    | cons l1 more => exact ⟨_, rfl⟩
  cases i
  case createchar slot pat =>
    obtain ⟨hlen, hslot⟩ := hchecks slot pat rfl
    exact ⟨_, beginOp_createchar hr hlen hslot⟩
  case text t =>
    obtain ⟨ls, hls⟩ := htext t
    exact ⟨ls, (beginOp_ready .host _ hr).trans (by rw [← hls]; rfl)⟩
  case textc t => exact ⟨_, beginOp_ready .host _ hr⟩
  case instr | data | instrs | datas | clear | home => exact ⟨_, rfl⟩
  all_goals simp [Instr.isLcd] at hi

/-- A bus step answered ok that is followed by another. -/
theorem drain_act_next (p : Port) (n : Nat) (ls : List Line) {d : Byte} (rest : List Answer) (s : State) {a a' : Act} {blk blk' : Block}
    (txs : List Tx) (h : a.onOk s.cfg blk d = .go blk' [a']) :
    drain (.ok d :: rest) (emit p n a [] ls (s.within blk txs)) =
      drain rest (emit p (n + 1) a' [] ls (s.within blk' (txs ++ [a.tx]))) := by
  rw [drain_running (emit_seq _ _ _ _ _ _), answer_go h]
  refine congrArg (drain rest) ((proceed_congr p (n + 1) [a'] ls (s := s.within blk' (txs ++ [a.tx])) ?_).trans (proceed_act ..))
  simp [State.within, emit]

theorem proceed_prologue_polling (p : Port) (n : Nat) (ls : List Line) (s : State) (hr : s.block.ready = true)
    (hd : displayState s.cfg s.block = .commandPolling) :
    proceed p n [] (.prologue :: ls) s = emit p n (.pollSetup (pollLo s.cfg s.block) (pollHi s.cfg s.block)) [] ls s := by
  simp [proceed_line, Line.perform, lcdPrologue, hr, hd]

theorem pollTxs_length (lo hi : Byte) (n : Nat) : (pollTxs lo hi n).length = 3 * n + 1 := by
  simp [pollTxs_eq, iterTxs, Nat.mul_comm]

theorem pollAnswers_length (d : Byte) (reads : List Byte) : (pollAnswers d reads).length = 3 * reads.length + 1 := by
  simp [pollAnswers_eq, iterAnswers, Nat.mul_comm]

/-- A poll's transactions, cut before its iteration `m + 1`. -/
theorem pollTxs_split (lo hi : Byte) (m q : Nat) :
    pollTxs lo hi (m + (q + 1)) = pollTxs lo hi m ++ (iterTxs lo hi ++ (List.replicate q (iterTxs lo hi)).flatten) := by
  simp [pollTxs_eq, List.replicate_add, List.replicate_succ]

/-- A poll's answers, cut before those of the iteration that reads `x`. -/
theorem pollAnswers_split (d x : Byte) (pre post : List Byte) :
    pollAnswers d (pre ++ x :: post) = pollAnswers d pre ++ (iterAnswers d x ++ post.flatMap (iterAnswers d)) := by
  simp [pollAnswers_eq]

/-- A poll's transactions, cut inside its iteration `m + 1`. -/
theorem pollTxs_cut (lo hi : Byte) (m q : Nat) {j : Nat} (hj : j < 3) :
    (pollTxs lo hi (m + (q + 1)))[3 * m + 1 + j]? = some ((iterTxs lo hi)[j]'hj) ∧
      (pollTxs lo hi (m + (q + 1))).take (3 * m + 1 + (j + 1)) = pollTxs lo hi m ++ (iterTxs lo hi).take (j + 1) := by
  have hj' : j < (iterTxs lo hi).length := hj
  rw [pollTxs_split, ← pollTxs_length lo hi m]
  constructor
  · rw [List.getElem?_append_right (by omega), Nat.add_sub_cancel_left, List.getElem?_append_left hj', List.getElem?_eq_getElem hj']
    rfl
  · rw [List.take_length_add_append, List.take_append_of_le_length hj']

/-- A poll's answers, cut inside its iteration `m + 1`, which reads some byte. -/
theorem pollAnswers_cut (d r : Byte) {busy : List Byte} {m j : Nat} (hm : m ≤ busy.length) (hj : j < 3) :
    ∃ x, (pollAnswers d (busy ++ [r])).take (3 * m + 1 + j) = pollAnswers d (busy.take m) ++ (iterAnswers d x).take j := by
  have hlen : (busy.take m).length = m := List.length_take_of_le hm
  obtain ⟨x, post, hreads⟩ : ∃ x post, busy ++ [r] = busy.take m ++ x :: post := by
    obtain ⟨x, post, hdrop⟩ := List.exists_cons_of_ne_nil (l := busy.drop m ++ [r]) (by simp)
    exact ⟨x, post, by rw [← hdrop, ← List.append_assoc, List.take_append_drop]⟩
  have hpre : 3 * m + 1 = (pollAnswers d (busy.take m)).length := by rw [pollAnswers_length, hlen]
  refine ⟨x, ?_⟩
  rw [hreads, pollAnswers_split, hpre, List.take_length_add_append, List.take_append_of_le_length (by simp [iterAnswers]; omega)]

section
variable (s : State) (ls : List Line) (rest : List Answer)

/-- R101: a poll whose reads are busy and below the bound, at the strobe of its next iteration. -/
theorem drain_poll_busy_reads (d : Byte) {busy : List Byte} (hr : s.block.ready = true)
    (hd : displayState s.cfg s.block = .commandPolling) (hbusy : ∀ x ∈ busy, busyFlag s.cfg x = true)
    (hexp : pollExpired s.cfg busy.length = false) :
    drain (pollAnswers d busy ++ rest) (proceed .host 0 [] (.prologue :: ls) (s.within s.block [])) =
      drain rest (emit .host (3 * busy.length + 1) (.pollStrobeHi (pollLo s.cfg s.block) (pollHi s.cfg s.block) busy.length) [] ls
        (s.within { s.block with portb := pollLo s.cfg s.block } (pollTxs (pollLo s.cfg s.block) (pollHi s.cfg s.block) busy.length))) := by
  have hexp' : pollExpired s.cfg (0 + busy.length) = false := by rw [Nat.zero_add, hexp]
  rw [pollAnswers_eq, List.cons_append, proceed_prologue_polling .host 0 ls (s.within s.block []) hr hd,
    drain_act_next .host 0 ls _ s [] rfl, ← proceed_act]
  refine (drain_poll_busy .host ls (pollLo s.cfg s.block) (pollHi s.cfg s.block) d rest busy 0 1 (s.within _ _) rfl hbusy
    hexp').trans ?_
  simp [State.within, pollTxs_eq, Nat.add_comm, Act.tx, setPortB]

/-- R89, R101, R138: an iteration of the poll one of whose transactions is answered `error`; E is high once the strobe has been answered ok. -/
theorem drain_iteration_error (n m : Nat) (lo hi d x : Byte) (blk : Block) (hlo : blk.portb = lo) (txs : List Tx) {j : Nat} (hj : j < 3) :
    drain ((iterAnswers d x).take j ++ .error :: rest) (emit .host n (.pollStrobeHi lo hi m) [] ls (s.within blk txs)) =
      s.finished { blk with portb := if j = 0 then lo else hi, stale := true } (txs ++ (iterTxs lo hi).take (j + 1))
        (.err (.transportError ((iterTxs lo hi)[j]'hj) (n + j + 1))) rest := by
  have hread : ∀ as, drain (.ok d :: as) (emit .host n (.pollStrobeHi lo hi m) [] ls (s.within blk txs)) =
      drain as (emit .host (n + 1) (.pollRead lo hi m) [] ls (s.within { blk with portb := hi } (txs ++ [.w1 hi]))) := fun as =>
    drain_act_next .host n ls as s txs rfl
  have hrest : ∀ as, drain (.ok d :: .ok x :: as) (emit .host n (.pollStrobeHi lo hi m) [] ls (s.within blk txs)) =
      drain as (emit .host (n + 2) (.pollStrobeRest lo hi m x) [] ls
        (s.within { blk with portb := hi } (txs ++ [.w1 hi] ++ [.r0]))) := fun as =>
    (hread _).trans (drain_act_next .host (n + 1) ls as s _ rfl)
  match j, hj with
  | 0, _ => exact hlo ▸ drain_act_error n [] ls rest s _ blk txs
  | 1, _ =>
    refine ((hread _).trans (drain_act_error (n + 1) [] ls rest s _ _ _)).trans ?_
    rw [List.append_assoc]
    rfl
  | 2, _ =>
    refine ((hrest _).trans (drain_act_error (n + 2) [] ls rest s _ _ _)).trans ?_
    rw [List.append_assoc, List.append_assoc]
    rfl

/-- R101, R138: the last iteration of the poll answered ok, its read not busy, and the direction write answered `error`. -/
theorem drain_exit_error (n m : Nat) (lo hi d : Byte) {r : Byte} (blk : Block) (hlo : blk.portb = lo) (txs : List Tx)
    (hr : busyFlag s.cfg r = false) :
    drain (iterAnswers d r ++ .error :: rest) (emit .host n (.pollStrobeHi lo hi m) [] ls (s.within blk txs)) =
      s.finished { blk with stale := true } (txs ++ iterTxs lo hi ++ [.wr .iodirb [blk.ddrb &&& ~~~s.cfg.ddrbD7Dir]])
        (.err (.transportError (.wr .iodirb [blk.ddrb &&& ~~~s.cfg.ddrbD7Dir]) (n + 4))) rest := by
  subst hlo
  have hdecide : ∀ b, (Act.pollStrobeRest b.portb hi m r).onOk s.cfg { b with portb := hi } d =
      .go b [.pollExit (b.ddrb &&& ~~~s.cfg.ddrbD7Dir)] := fun b => by simp [Act.onOk, pollDecide, hr, setPortB]
  simp only [iterAnswers, List.cons_append, List.nil_append]
  rw [drain_act_next .host n ls _ s txs rfl, drain_act_next .host (n + 1) ls _ s _ rfl,
    drain_act_next .host (n + 2) ls _ s _ (hdecide blk), drain_act_error]
  simp [iterTxs, Act.tx]

end

/-- Settles O37: the failing transaction is SETUP, one of an iteration after busy reads alone, or the direction write. -/
theorem failedPollKeepsPolling : Obligations.FailedPollKeepsPolling := by
  intro s i busy r d rest ⟨hq, hr, hd⟩ hi hchecks hbusy hexp
  obtain ⟨ls, hbegin⟩ := beginOp_lcd_prologue hr hi hchecks
  have hne : i ≠ .lcdboot := by rintro rfl; simp [Instr.isLcd] at hi
  rw [exec_between hne hq, hbegin, beginOp_within]
  refine ⟨fun k e he hk => congrArg _ ?_, fun hnot he => congrArg _ ?_⟩
  · rw [he]
    have hlast : k < 3 * (busy.length + 1) + 1 := pollTxs_length .. ▸ (List.getElem?_eq_some_iff.1 hk).1
    obtain rfl | ⟨m, j, hj, rfl⟩ : k = 0 ∨ ∃ m j, j < 3 ∧ k = 3 * m + 1 + j := by
      rcases k with _ | k
      · exact .inl rfl
      · exact .inr ⟨k / 3, k % 3, by omega, by omega⟩
    · obtain rfl : e = .wr .gpiob [pollLo s.cfg s.block] := (Option.some.inj hk).symm
      exact (congrArg _ (proceed_prologue_polling .host 0 ls (s.within s.block []) hr hd)).trans
        (drain_act_error 0 [] ls rest s _ s.block [])
    · have hm : m ≤ busy.length := by omega
      have hlen : (busy.take m).length = m := List.length_take_of_le hm
      obtain ⟨x, hanswers⟩ := pollAnswers_cut d r hm hj
      obtain ⟨q, hcount⟩ : ∃ q, busy.length + 1 = m + (q + 1) := ⟨busy.length - m, by omega⟩
      obtain ⟨hfailing, hsent⟩ := pollTxs_cut (pollLo s.cfg s.block) (pollHi s.cfg s.block) m q hj
      rw [hcount, hfailing] at hk
      obtain rfl := Option.some.inj hk
      have hportb : (3 * m + 1 + j) % 3 = 1 ↔ j = 0 := by omega
      rw [hanswers, List.append_assoc, drain_poll_busy_reads s ls _ d hr hd (fun y hy => hbusy y (List.mem_of_mem_take hy))
        (pollExpired_mono hexp (hlen.trans_le hm)), hlen,
        drain_iteration_error s ls rest _ m _ _ d x { s.block with portb := pollLo s.cfg s.block } rfl _ hj, hcount,
        Nat.add_assoc, hsent]
      simp [hportb]
  · rw [he, pollAnswers_split d r busy [], List.append_assoc, drain_poll_busy_reads s ls _ d hr hd hbusy hexp]
    simp only [List.flatMap_nil, List.append_nil]
    rw [drain_exit_error s ls rest _ _ _ _ d { s.block with portb := pollLo s.cfg s.block } rfl _ hnot, wholePoll,
      pollTxs_split _ _ busy.length 0]
    simp

end Sys2Proof.Machine

namespace Sys2Proof.Machine

/-! ### D7 while a frame awaits its answer -/

/-- Settles O56: the invariant is a claim that every answer keeps, and its part for an awaited frame says that D7 is an output. -/
theorem framesOnlyWhileD7IsOutput : Obligations.FramesOnlyWhileD7IsOutput := by
  intro s r a hs hq
  obtain ⟨hsane, hh⟩ := (inv_iff_holds s).1 hs
  have hcfg := (answer_kept a r s).1.cfg
  have hkept : Holds (fun b _ acts ls => BlockOk s.cfg b ∧ toComeOk s.cfg b acts ls) (fun b _ => betweenOk s.cfg b) (answer a r s) :=
    (inv_keeps hsane).answer a rfl hq hh
  refine ⟨(inv_iff_holds _).2 ?_, fun r' bs hq' hact => ?_⟩
  · rw [hcfg]
    exact ⟨hsane, hkept⟩
  · rw [holds_running hq', hact] at hkept
    obtain ⟨-, ⟨-, hacts, -⟩ | ⟨-, hnone, -⟩ | ⟨hnone, -⟩ | ⟨-, hinit, -⟩⟩ := hkept
    · obtain ⟨⟨-, -, hidle⟩, -⟩ := List.forall_mem_cons.1 hacts
      exact hidle
    · simp at hnone
    · simp at hnone
    · simp at hinit

end Sys2Proof.Machine

namespace Sys2Proof.Machine

/-! ### The lines of a text (R114) -/

section
variable {sep : Byte}

theorem splitLines_cons_sep (t : List Byte) : splitLines sep (sep :: t) = [] :: splitLines sep t := by
  simp [splitLines]

/-- A byte other than the separator is the first of the first line. -/
theorem splitLines_cons_other {b : Byte} (h : b ≠ sep) {t l : List Byte} {ls : List (List Byte)} (ht : splitLines sep t = l :: ls) :
    splitLines sep (b :: t) = (b :: l) :: ls := by
  simp [splitLines, h, ht]

/-- The model's lines are the library's split of a list. -/
theorem splitLines_eq_splitOn (t : List Byte) : splitLines sep t = t.splitOn sep := by
  induction t with
  | nil => simp [splitLines]
  | cons b t ih =>
    obtain ⟨l, ls, ht⟩ := List.exists_cons_of_ne_nil (splitLines_ne_nil sep t)
    rw [List.splitOn_cons_eq_if_modifyHead, ← ih]
    by_cases hb : b = sep
    · subst hb
      simp [splitLines_cons_sep]
    · simp [splitLines_cons_other hb ht, hb, ht]

theorem sep_not_mem_splitLines (t : List Byte) : ∀ l ∈ splitLines sep t, sep ∉ l := by
  induction t with
  | nil => simp [splitLines]
  | cons b t ih =>
    by_cases hb : b = sep
    · subst hb
      rw [splitLines_cons_sep]
      exact List.forall_mem_cons.2 ⟨List.not_mem_nil, ih⟩
    · obtain ⟨l, ls, ht⟩ := List.exists_cons_of_ne_nil (splitLines_ne_nil sep t)
      rw [ht] at ih
      rw [splitLines_cons_other hb ht]
      obtain ⟨hl, hls⟩ := List.forall_mem_cons.1 ih
      exact List.forall_mem_cons.2 ⟨by simp [Ne.symm hb, hl], hls⟩

theorem splitLines_length (t : List Byte) : (splitLines sep t).length = t.count sep + 1 := by
  induction t with
  | nil => simp [splitLines]
  | cons b t ih =>
    by_cases hb : b = sep
    · subst hb
      rw [splitLines_cons_sep, List.length_cons, ih, List.count_cons_self]
    · obtain ⟨l, ls, ht⟩ := List.exists_cons_of_ne_nil (splitLines_ne_nil sep t)
      rw [splitLines_cons_other hb ht, List.count_cons_of_ne hb, ← ih, ht, List.length_cons, List.length_cons]

end

/-- Settles O21: a text's lines are the library's split of it, and each separator makes one line more. -/
theorem linesOfText : Obligations.LinesOfText := by
  intro sep t
  refine ⟨sep_not_mem_splitLines t, ?_, splitLines_length t, rfl⟩
  rw [splitLines_eq_splitOn]
  exact List.intercalate_splitOn sep

end Sys2Proof.Machine

namespace Sys2Proof.Machine

/-! ### One byte while D7 is an output -/

/-- S after the frame of a byte has been answered ok. -/
def afterByte (cfg : Config) (blk : Block) (c : Bool) (v : Byte) : Block :=
  { blk with portb := base cfg blk c ||| flipTable cfg (lowNibble v) }

/-- The WR of a byte's frame. -/
def byteTx (cfg : Config) (blk : Block) (c : Bool) (v : Byte) : Tx := frameTx (frame cfg (base cfg blk c) v)

/-- The body of INSTR (c = 0) and of DATA (c = 1). -/
def byteBody : Bool → Byte → List Line
  | false, v => instrBody v
  | true, v => dataBody v

/-- R105, R108: either begins with the prologue and the byte's frame. -/
theorem byteBody_prologue (c : Bool) (v : Byte) : ∃ ls, byteBody c v = .prologue :: .emitByte c v :: ls := by
  cases c with
  | false => exact ⟨[.slowStep v], rfl⟩
  | true => exact ⟨[], rfl⟩

/-- INSTR (c = 0) or DATA (c = 1) is performed from its body. -/
theorem exec_byte {s : State} (hq : s.seq = .between) (c : Bool) (v : Byte) :
    exec (if c then .data v else .instr v) s = .next (beginOp .host (byteBody c v) s) := by
  cases c <;> exact exec_between (by simp) hq

theorem isSlow_iff {cfg : Config} {v : Byte} : isSlow cfg v = true ↔ v = cfg.cmdClear ∨ v = cfg.cmdHome := by
  simp [isSlow]

section
variable (p : Port) (n : Nat) (ls : List Line) (s : State) {blk : Block} (txs : List Tx) (c : Bool) (v d : Byte) (rest : List Answer)

/-- R105: a byte's frame. -/
theorem drain_byte :
    drain (.ok d :: rest) (proceed p n [] (.emitByte c v :: ls) (s.within blk txs)) =
      drain rest (proceed p (n + 1) [] ls (s.within (afterByte s.cfg blk c v) (txs ++ [byteTx s.cfg blk c v]))) := by
  rw [drain_emitByte, State.within, List.append_assoc]
  rfl

/-- R108: INSTR of a byte outside the slow set, or DATA, that ends the operation, D7 being an output. -/
theorem drain_byteBody_finished (hr : blk.ready = true) (hd : displayState s.cfg blk = .idle) (hv : c = false → isSlow s.cfg v = false) :
    drain (.ok d :: rest) (proceed .host n [] (byteBody c v) (s.within blk txs)) =
      s.finished (afterByte s.cfg blk c v) (txs ++ [byteTx s.cfg blk c v]) (.ok .unit) rest := by
  cases c with
  | false =>
    rw [byteBody, instrBody, proceed_prologue_idle .host n _ _ hr hd, drain_byte,
      proceed_notSlow .host (n + 1) [] v (s.within _ _) (hv rfl), drain_finished]
  | true => rw [byteBody, dataBody, proceed_prologue_idle .host n _ _ hr hd, drain_byte, drain_finished]

end

/-- R138: INSTR or DATA whose frame fails: nothing follows the frame. -/
theorem beginOp_byte_error {s : State} (h : ReadyIdle s) (c : Bool) (v : Byte) {rest : List Answer} (he : s.env = .error :: rest) :
    beginOp .host (byteBody c v) s = s.finished { s.block with stale := true } [byteTx s.cfg s.block c v]
      (.err (.transportError (byteTx s.cfg s.block c v) 1)) rest := by
  obtain ⟨-, hr, hd⟩ := h
  obtain ⟨ls, hls⟩ := byteBody_prologue c v
  rw [beginOp_within, he, hls, proceed_prologue_idle .host 0 _ (s.within _ _) hr hd, proceed_emitByte, List.map_singleton, proceed_act]
  exact drain_act_error 0 [] ls rest s _ s.block []

/-- R108, R138: a slow INSTR whose direction write fails: the frame stays sent. -/
theorem beginOp_instr_slow_error {s : State} (h : ReadyIdle s) {v : Byte} (hv : isSlow s.cfg v = true) {d : Byte} {rest : List Answer}
    (he : s.env = .ok d :: .error :: rest) :
    beginOp .host (instrBody v) s = s.finished { afterByte s.cfg s.block false v with stale := true }
      [byteTx s.cfg s.block false v, slowTx s.cfg s.block] (.err (.transportError (slowTx s.cfg s.block) 2)) rest := by
  obtain ⟨-, hr, hd⟩ := h
  rw [beginOp_within, he, instrBody, proceed_prologue_idle .host 0 _ (s.within _ _) hr hd, drain_byte,
    proceed_slow .host _ [] v (s.within _ _) hv]
  exact drain_act_error 1 [] [] rest s _ _ _

/-- R105, R107: INSTR of a byte outside the slow set, or DATA, its frame answered ok. -/
theorem exec_byte_idle {s : State} (h : ReadyIdle s) {c : Bool} {v : Byte} (hv : c = false → isSlow s.cfg v = false) {d : Byte}
    {rest : List Answer} (he : s.env = .ok d :: rest) :
    exec (if c then .data v else .instr v) s =
      .next (s.finished (afterByte s.cfg s.block c v) [byteTx s.cfg s.block c v] (.ok .unit) rest) := by
  obtain ⟨hq, hr, hd⟩ := h
  rw [exec_byte hq, beginOp_within, he, drain_byteBody_finished 0 s [] c v d rest hr hd hv]
  rfl

/-- Settles O22: the frame alone, the frame and a slow byte's direction write, and the failure of either. -/
theorem oneByteFromIdle : Obligations.OneByteFromIdle := by
  intro s b d d' rest h f0 f1 sent dir
  obtain ⟨hq, -, hd⟩ := id h
  refine ⟨fun hclear hhome he => ?_, fun hb he => ?_, fun he => ?_, fun hb he => ⟨?_, hd⟩, fun he => ⟨?_, ?_⟩⟩
  · have hnot : isSlow s.cfg b = false := Bool.eq_false_iff.2 (mt isSlow_iff.1 (not_or.2 ⟨hclear, hhome⟩))
    exact exec_byte_idle (c := false) h (fun _ => hnot) he
  · exact (exec_byte hq false b).trans (congrArg _ (beginOp_instr_slow h (isSlow_iff.2 hb) he))
  · exact exec_byte_idle (c := true) h nofun he
  · exact (exec_byte hq false b).trans (congrArg _ (beginOp_instr_slow_error h (isSlow_iff.2 hb) he))
  · exact (exec_byte hq false b).trans (congrArg _ (beginOp_byte_error h false b he))
  · exact (exec_byte hq true b).trans (congrArg _ (beginOp_byte_error h true b he))

/-! ### A sequence while D7 is an output -/

/-- INSTRS (c = 0) or DATAS (c = 1) is performed from its body. -/
theorem exec_seq {s : State} (hq : s.seq = .between) (c : Bool) (vs : List Byte) :
    exec (if c then .datas vs else .instrs vs) s = .next (beginOp .host (seqBody c vs) s) := by
  cases c <;> exact exec_between (by simp) hq

/-- R109: a sequence that ends the operation, D7 being an output. -/
theorem drain_seqBody_finished (n : Nat) (s : State) {blk : Block} (txs : List Tx) (c : Bool) (vs : List Byte) {as : List Answer}
    (rest : List Answer) (hr : blk.ready = true) (hd : displayState s.cfg blk = .idle)
    (hlen : as.length = (batches s.cfg (base s.cfg blk c) vs).length) (hok : allOk as = true) :
    drain (as ++ rest) (proceed .host n [] (seqBody c vs) (s.within blk txs)) =
      s.finished (afterFrames blk (batches s.cfg (base s.cfg blk c) vs))
        (txs ++ (batches s.cfg (base s.cfg blk c) vs).map frameTx) (.ok .unit) rest := by
  rw [← List.append_nil (seqBody c vs), drain_seq_idle .host n [] s txs rest c vs hr hd hlen hok, drain_finished]

/-- Settles O23: a sequence has no line after its batches. -/
theorem sequenceFromIdle : Obligations.SequenceFromIdle := by
  intro s c bs as rest ⟨hq, hr, hd⟩ he hlen hok
  rw [exec_seq hq, beginOp_within, he, drain_seqBody_finished 0 s [] c bs rest hr hd hlen hok]
  rfl

/-- R106, R138: of WRs of frames the one after `as` is answered `error`, those before it ok: the WRs after it are not sent. -/
theorem drain_frames_error (ls : List Line) (s : State) {wr : List Byte} (rest : List Answer) :
    ∀ (as : List Answer) (wrs : List (List Byte)) (n : Nat) (blk : Block) (txs : List Tx), allOk as = true →
      wrs[as.length]? = some wr →
      drain (as ++ .error :: rest) (proceed .host n (wrs.map .sendFrames) ls (s.within blk txs)) =
        s.finished { afterFrames blk (wrs.take as.length) with stale := true } (txs ++ (wrs.take (as.length + 1)).map frameTx)
          (.err (.transportError (frameTx wr) (n + as.length + 1))) rest := by
  intro as
  induction as with
  | nil =>
    intro wrs n blk txs _ hwr
    obtain ⟨wrs, rfl⟩ : ∃ more, wrs = wr :: more := by cases wrs <;> simp_all
    rw [List.map_cons, proceed_act]
    exact drain_act_error n _ ls rest s _ blk txs
  | cons a as ih =>
    intro wrs n blk txs hok hwr
    obtain ⟨⟨d, rfl⟩, hok⟩ := allOk_cons_iff.1 hok
    obtain ⟨w, wrs, rfl⟩ := List.exists_cons_of_ne_nil (l := wrs) (by rintro rfl; simp at hwr)
    have hnext := ih wrs (n + 1) (setPortB w blk) (txs ++ [frameTx w]) hok hwr
    rw [List.map_cons, proceed_act, List.cons_append, drain_running (emit_seq _ _ _ _ _ _),
      answer_go (blk := setPortB w blk) (acts := []) rfl, List.nil_append,
      proceed_congr (s := s.within (setPortB w blk) (txs ++ [frameTx w])) (h := by simp [State.within, emit, Act.tx, frameTx]), hnext,
      Nat.add_right_comm n 1]
    simp [Nat.add_assoc]

/-- Settles O24: the batches are the WRs of the body's last line. -/
theorem sequenceFailsAtABatch : Obligations.SequenceFailsAtABatch := by
  intro s c bs as rest k b ⟨hq, hr, hd⟩ he hlen hok hb
  subst hlen
  rw [exec_seq hq, beginOp_within, he, seqBody, proceed_prologue_idle .host 0 _ (s.within _ _) hr hd, proceed_emitSeq]
  refine congrArg _ ((drain_frames_error [] s rest as _ 0 s.block [] hok hb).trans ?_)
  rw [Nat.zero_add]
  rfl

/-! ### A text while D7 is an output -/

/-- The block `b` is ready, with D7 an output and the base masks of `blk`. -/
structure IdleOn (cfg : Config) (blk b : Block) : Prop where
  ready : b.ready = true
  idle : displayState cfg b = .idle
  mask : ∀ c, base cfg b c = base cfg blk c

section
variable {cfg : Config} (hwf : cfg.wf = true) {blk b : Block}
include hwf

/-- The batches of a sequence leave D7 and the base masks. -/
theorem IdleOn.after_batches (h : IdleOn cfg blk b) (c : Bool) (vs : List Byte) :
    IdleOn cfg blk (afterFrames b (batches cfg (base cfg blk c) vs)) := by
  obtain ⟨-, hddrb, hready, -⟩ := afterFrames_frame (batches cfg (base cfg blk c) vs) b
  refine ⟨hready.trans h.ready, (displayState_congr hddrb).trans h.idle, fun c' => ?_⟩
  rw [← h.mask c, base_afterBatches hwf, h.mask]

/-- So does a command. -/
theorem IdleOn.after_command (h : IdleOn cfg blk b) (v : Byte) : IdleOn cfg blk (afterCommand cfg b v) :=
  ⟨h.ready, h.idle, fun c => (base_afterCommand hwf b v c).trans (h.mask c)⟩

/-- So does a poll, which makes D7 an output. -/
theorem afterPoll_idleOn (hr : b.ready = true) (hbase : ∀ c, base cfg b c = base cfg blk c) :
    IdleOn cfg blk (afterPoll cfg b) :=
  ⟨hr, displayState_afterPoll cfg b, fun c => (base_afterPoll hwf b c).trans (hbase c)⟩

end

/-- R113: the WRs of a text's lines: line 0's batches and, where there is a line 1, the reposition and line 1's batches. -/
def textWrites (cfg : Config) (blk : Block) : List (List Byte) → List (List Byte)
  | [] => []
  | [l0] => batches cfg (base cfg blk true) l0
  | l0 :: l1 :: _ =>
    batches cfg (base cfg blk true) l0 ++ [frame cfg (base cfg blk false) cfg.cmdLine2] ++ batches cfg (base cfg blk true) l1

theorem textWrites_two_length (cfg : Config) (blk : Block) (l0 l1 : List Byte) (ls : List (List Byte)) :
    (textWrites cfg blk (l0 :: l1 :: ls)).length =
      (batches cfg (base cfg blk true) l0).length + 1 + (batches cfg (base cfg blk true) l1).length := by
  simp [textWrites, Nat.add_assoc, Nat.add_comm 1]

theorem afterFrames_append (blk : Block) (xs ys : List (List Byte)) :
    afterFrames blk (xs ++ ys) = afterFrames (afterFrames blk xs) ys := List.foldl_append

/-- R91: a command leaves what the WR of its frame leaves. -/
theorem IdleOn.afterFrames_command {cfg : Config} {blk b : Block} (h : IdleOn cfg blk b) (v : Byte) :
    afterFrames b [frame cfg (base cfg blk false) v] = afterCommand cfg b v := by
  rw [← h.mask]
  rfl

/-- R109: a sequence on a block with the base masks of `blk`. -/
theorem IdleOn.drain_seq {s : State} {blk b : Block} (h : IdleOn s.cfg blk b) (n : Nat) (ls : List Line) (txs : List Tx) (c : Bool)
    (vs : List Byte) {as : List Answer} (rest : List Answer) (hlen : as.length = (batches s.cfg (base s.cfg blk c) vs).length)
    (hok : allOk as = true) :
    drain (as ++ rest) (proceed .host n [] (seqBody c vs ++ ls) (s.within b txs)) =
      drain rest (proceed .host (n + (batches s.cfg (base s.cfg blk c) vs).length) [] ls
        (s.within (afterFrames b (batches s.cfg (base s.cfg blk c) vs))
          (txs ++ (batches s.cfg (base s.cfg blk c) vs).map frameTx))) := by
  rw [← h.mask] at hlen ⊢
  exact drain_seq_idle .host n ls s txs rest c vs h.ready h.idle hlen hok

/-- R113: the lines of a text while D7 is an output. -/
theorem IdleOn.drain_textLines {s : State} {blk b : Block} (h : IdleOn s.cfg blk b) (hwf : s.cfg.wf = true)
    (hline2 : isSlow s.cfg s.cfg.cmdLine2 = false) (n : Nat) (txs : List Tx) (lines : List (List Byte)) {as : List Answer}
    (rest : List Answer) (hlen : as.length = (textWrites s.cfg blk lines).length) (hok : allOk as = true) :
    drain (as ++ rest) (proceed .host n [] (textLines s.cfg lines) (s.within b txs)) =
      s.finished (afterFrames b (textWrites s.cfg blk lines)) (txs ++ (textWrites s.cfg blk lines).map frameTx) (.ok .unit) rest := by
  match lines with
  | [] =>
    obtain rfl := List.eq_nil_of_length_eq_zero hlen
    exact (drain_finished n rest s b txs).trans (by simp [textWrites])
  | [l0] =>
    rw [textLines, ← List.append_nil (seqBody true l0), h.drain_seq n [] txs true l0 rest hlen hok, drain_finished]
    rfl
  | l0 :: l1 :: _ =>
    rw [textWrites_two_length, Nat.add_right_comm, Nat.add_assoc] at hlen
    obtain ⟨xs, ys, rfl, hxs, hys, hxlen, hylen⟩ := allOk_split hok hlen
    obtain ⟨d, ys, rfl, hys, hylen⟩ := allOk_uncons hys hylen
    have h0 := h.after_batches hwf true l0
    have h1 := h0.after_command hwf s.cfg.cmdLine2
    rw [textLines, ← List.append_nil (seqBody true l1), List.append_assoc, List.append_assoc, List.cons_append,
      h.drain_seq n _ txs true l0 _ hxlen hxs, drain_instr_idle .host _ _ s _ _ d _ h0.ready h0.idle hline2,
      h1.drain_seq _ [] _ true l1 rest hylen hys, drain_finished, textWrites, afterFrames_append, afterFrames_append,
      h0.afterFrames_command, commandTx, h0.mask]
    simp [List.append_assoc]

/-- Settles O28: on a ready block the body is the lines of the text, of which the first two alone are written. -/
theorem textFromIdle : Obligations.TextFromIdle := by
  intro s t l0 l1 ls as rest ⟨hq, hr, hd⟩ hwf hline2 he hok w0 w1 r
  have htext : as.length = (textWrites s.cfg s.block (splitLines s.cfg.lineSep t)).length →
      exec (.text t) s = .next (s.finished (afterFrames s.block (textWrites s.cfg s.block (splitLines s.cfg.lineSep t)))
        ((textWrites s.cfg s.block (splitLines s.cfg.lineSep t)).map frameTx) (.ok .unit) rest) := by
    intro hlen
    have hidle : IdleOn s.cfg s.block s.block := ⟨hr, hd, fun _ => rfl⟩
    rw [(exec_text_ready hq hr t).1, beginOp_within, he, hidle.drain_textLines hwf hline2 0 [] _ rest hlen hok]
    rfl
  refine ⟨fun ht hlen => ?_, fun ht hlen => ?_⟩ <;> rw [ht] at htext
  · exact htext hlen
  · exact htext (hlen.trans (textWrites_two_length ..).symm)

end Sys2Proof.Machine

namespace Sys2Proof.Machine

/-! ### A poll and then the operation -/

/-- R100: a prologue while D7 is an input is a poll and then the prologue while D7 is an output. -/
theorem drain_poll_prologue (n : Nat) (ls : List Line) (s : State) {blk : Block} (txs : List Tx) {busy : List Byte} {r : Byte}
    (d d' : Byte) (rest : List Answer) (hr : blk.ready = true) (hd : displayState s.cfg blk = .commandPolling)
    (hp : PollEnds s.cfg busy r) :
    drain (pollAnswers d (busy ++ [r]) ++ .ok d' :: rest) (proceed .host n [] (.prologue :: ls) (s.within blk txs)) =
      drain rest (proceed .host (n + 3 * busy.length + 5) [] (.prologue :: ls)
        (s.within (afterPoll s.cfg blk) (txs ++ wholePoll s.cfg blk (busy.length + 1)))) := by
  rw [drain_prologue_polling .host n ls s txs d d' rest hr hd hp,
    proceed_prologue_idle .host _ ls (s.within (afterPoll s.cfg blk) _) hr (displayState_afterPoll s.cfg blk)]

/-- R100: a body that begins with the prologue, performed while D7 is an input. -/
theorem beginOp_poll {s : State} (h : ReadyPolling s) {busy : List Byte} {r d d' : Byte} {rest : List Answer} (hp : PollEnds s.cfg busy r)
    (he : s.env = pollAnswers d (busy ++ [r]) ++ .ok d' :: rest) (ls : List Line) :
    beginOp .host (.prologue :: ls) s = drain rest (proceed .host (3 * busy.length + 5) [] (.prologue :: ls)
      (s.within (afterPoll s.cfg s.block) (wholePoll s.cfg s.block (busy.length + 1)))) := by
  obtain ⟨-, hr, hd⟩ := h
  rw [beginOp_within, he, drain_poll_prologue 0 ls s [] d d' rest hr hd hp, Nat.zero_add]
  rfl

/-- Settles O32: the poll, and then the byte while D7 is an output. -/
theorem pollThenOneByte : Obligations.PollThenOneByte := by
  intro s c b busy r d rest h hb hp he
  obtain ⟨hq, hr, -⟩ := id h
  obtain ⟨ls, hls⟩ := byteBody_prologue c b
  rw [exec_byte hq, hls, beginOp_poll h hp he, ← hls]
  exact congrArg _
    (drain_byteBody_finished _ s _ c b d rest (blk := afterPoll s.cfg s.block) hr (displayState_afterPoll s.cfg s.block) hb)

/-- Settles O33: the poll, and then the sequence while D7 is an output. -/
theorem pollThenSequence : Obligations.PollThenSequence := by
  intro s c bs busy r d as rest h hp he hok hlen
  obtain ⟨hq, hr, -⟩ := id h
  rw [exec_seq hq, seqBody, beginOp_poll h hp he]
  exact congrArg _
    (drain_seqBody_finished _ s _ c bs rest (blk := afterPoll s.cfg s.block) hr (displayState_afterPoll s.cfg s.block) hlen hok)

/-- R114: the lines of a text begin with line 0's prologue. -/
theorem textLines_prologue (cfg : Config) (t : List Byte) :
    ∃ ls, textLines cfg (splitLines cfg.lineSep t) = .prologue :: ls := by
  obtain ⟨l0, more, hlines⟩ := List.exists_cons_of_ne_nil (splitLines_ne_nil cfg.lineSep t)
  rw [hlines]
  cases more with
  | nil => exact ⟨_, rfl⟩
  | cons l1 more => exact ⟨_, rfl⟩

/-- Settles O29: the clear leaves D7 an input, so that the text's first prologue polls; the lines then go on as while D7 is an output. -/
theorem textcFromIdle : Obligations.TextcFromIdle := by
  intro s t l0 l1 ls busy r d as rest ⟨hq, hr, hd⟩ hwf hline2 hp hok he blk1 blk2 w0 w1 line2 pre
  have hidle : IdleOn s.cfg s.block blk2 := afterPoll_idleOn hwf hr (base_afterCommand hwf s.block s.cfg.cmdClear)
  have hpoll : displayState s.cfg blk1 = .commandPolling := displayState_slow hwf (afterCommand s.cfg s.block s.cfg.cmdClear) _
  have htext : as.length = (textWrites s.cfg s.block (splitLines s.cfg.lineSep t)).length →
      exec (.textc t) s = .next (s.finished (afterFrames blk2 (textWrites s.cfg s.block (splitLines s.cfg.lineSep t)))
        (pre ++ (textWrites s.cfg s.block (splitLines s.cfg.lineSep t)).map frameTx) (.ok .unit) rest) := by
    intro hlen
    obtain ⟨more, hmore⟩ := textLines_prologue s.cfg t
    rw [(exec_text_ready hq hr t).2, beginOp_within, he, drain_instr_slow .host 0 _ s [] _ d d _ hr hd (isSlow_cmdClear _), hmore]
    refine congrArg _ ((drain_poll_prologue _ more s _ d d _ (blk := blk1) hr hpoll hp).trans ?_)
    rw [← hmore]
    exact hidle.drain_textLines hwf hline2 _ _ _ rest hlen hok
  refine ⟨fun ht hlen => ?_, fun ht hlen => ?_⟩ <;> rw [ht] at htext
  · exact htext hlen
  · exact htext (hlen.trans (textWrites_two_length ..).symm)

/-- The lines of an LCD operation past its checks. -/
def lcdLines (cfg : Config) : Instr → List Line
  | .createchar slot pat => instrBody (cgramCmd cfg slot) ++ (seqBody true pat ++ (instrBody cfg.cmdCgramExit ++ []))
  | .text t => textLines cfg (splitLines cfg.lineSep t)
  | .textc t => instrBody cfg.cmdClear ++ textLines cfg (splitLines cfg.lineSep t)
  | i => bodyOf cfg i

/-- R100: they begin with the prologue. -/
theorem lcdLines_prologue (cfg : Config) {i : Instr} (hi : i.isLcd = true) : ∃ ls, lcdLines cfg i = .prologue :: ls := by
  cases i
  case text t => exact textLines_prologue cfg t
  case instr | data | instrs | datas | clear | home | createchar | textc => exact ⟨_, rfl⟩
  all_goals simp [Instr.isLcd] at hi

/-- R112, R113, R143: on a ready block an LCD operation that passes its checks does what those lines do. -/
theorem exec_lcdLines {s : State} {i : Instr} (hq : s.seq = .between) (hr : s.block.ready = true) (hi : i.isLcd = true)
    (hchecks : ∀ slot pat, i = .createchar slot pat → pat.length = 8 ∧ (s.cfg.slotPolicy = .mask ∨ slot.toNat ≤ 7)) :
    exec i s = .next (beginOp .host (lcdLines s.cfg i) s) := by
  cases i
  case createchar slot pat =>
    obtain ⟨hlen, hslot⟩ := hchecks slot pat rfl
    exact (exec_between (by simp) hq).trans (congrArg _ (beginOp_createchar hr hlen hslot))
  case text t => exact (exec_text_ready hq hr t).1
  case textc t => exact (exec_text_ready hq hr t).2
  case instr | data | instrs | datas | clear | home => exact exec_between (by simp) hq
  all_goals simp [Instr.isLcd] at hi

/-- `s` after a poll of `n` iterations, with the answers `rest` left. -/
def State.polled (s : State) (n : Nat) (rest : List Answer) : State :=
  { s with block := afterPoll s.cfg s.block, env := rest, trace := s.trace ++ wholePoll s.cfg s.block n }

/-- R100: a body that begins with the prologue, performed from the state after the poll, and beside it the same body while D7 is an input. -/
theorem beginOp_poll_alongside {s : State} (h : ReadyPolling s) {busy : List Byte} {r d d' : Byte} {rest : List Answer}
    (hp : PollEnds s.cfg busy r) (he : s.env = pollAnswers d (busy ++ [r]) ++ .ok d' :: rest) (ls : List Line) :
    Alongside s.cfg (3 * busy.length + 5) s.results s.results
      (beginOp .host (.prologue :: ls) (s.polled (busy.length + 1) rest)) (beginOp .host (.prologue :: ls) s) := by
  rw [beginOp_poll h hp he]
  exact beginOp_alongside (s := s.polled (busy.length + 1) rest) (SameLines.refl s.cfg _) _ _

/-- Settles O34: after the poll the two runs are those of one body, one of them with the poll's transactions before it. -/
theorem pollThenOperation : Obligations.PollThenOperation := by
  intro s t u i busy r d d' rest h hi hchecks hp he ht hu
  obtain ⟨hq, hr, -⟩ := id h
  obtain ⟨ls, hls⟩ := lcdLines_prologue s.cfg hi
  have hbeside := beginOp_poll_alongside h hp he ls
  rw [exec_lcdLines hq hr hi hchecks, hls] at ht
  replace hu := (exec_lcdLines (s := s.polled (busy.length + 1) rest) hq hr hi hchecks).symm.trans hu
  rw [show lcdLines (s.polled (busy.length + 1) rest).cfg i = _ from hls] at hu
  rw [Host.Outcome.next.inj ht, Host.Outcome.next.inj hu] at hbeside
  cases hbeside with
  | running _ hqu _ _ hres => exact ⟨rfl, rfl, rfl, fun h => by simp [hqu] at h, fun _ => ⟨nofun, hres, rfl⟩⟩
  | ended hqu hres => exact ⟨rfl, rfl, rfl, fun _ => ⟨hqu, _, hres, rfl⟩, fun h => absurd hqu h⟩

/-- Settles O35: the poll is the first thing an LCD operation does, and nothing follows it. -/
theorem busyTimeoutAtTheLimit : Obligations.BusyTimeoutAtTheLimit := by
  intro s i busy l d rest ⟨hq, hr, hd⟩ hi hchecks hlimit hl hlen hbusy he
  obtain ⟨ls, hls⟩ := lcdLines_prologue s.cfg hi
  rw [exec_lcdLines hq hr hi hchecks, hls, beginOp_within, he,
    drain_poll_timeout ls busy l d rest 0 (s.within s.block []) .host hr hd hlimit hl hlen hbusy, drain_complete _ _ _ rfl]
  simp [State.within, State.finished, complete]

/-- Settles O36: after the last busy read the poll strobes again, and awaits the answer. -/
theorem busyPollNeedNotEnd : Obligations.BusyPollNeedNotEnd := by
  intro s t i busy d ⟨hq, hr, hd⟩ hi hlimit hchecks hbusy he ht
  obtain ⟨ls, hls⟩ := lcdLines_prologue s.cfg hi
  have hexp : pollExpired s.cfg busy.length = false := by simp [pollExpired, hlimit]
  rw [exec_lcdLines hq hr hi hchecks, hls, beginOp_within, he, ← List.append_nil (pollAnswers d busy),
    drain_poll_busy_reads s ls [] d hr hd hbusy hexp, drain_nil] at ht
  obtain rfl := Host.Outcome.next.inj ht
  exact ⟨⟨_, rfl⟩, rfl, rfl, rfl⟩

/-! ### CREATECHAR's usage errors -/

theorem proceed_pattern_error (p : Port) (n : Nat) {len : Nat} (ls : List Line) (s : State) (h : len ≠ 8) :
    proceed p n [] (.requirePattern len :: ls) s = complete p (.err (.protocolUsageError .patternLen len)) s := by
  simp [proceed_line, Line.perform, requirePattern, h]

theorem proceed_slot_error (p : Port) (n : Nat) (ls : List Line) {slot : Byte} (s : State) (hp : s.cfg.slotPolicy = .reject)
    (h : 7 < slot.toNat) :
    proceed p n [] (.requireSlot slot :: ls) s = complete p (.err (.protocolUsageError .slotRange slot.toNat)) s := by
  simp [proceed_line, Line.perform, requireSlot, hp, h]

/-- A line that raises before any transaction ends the operation with S as it was. -/
theorem drain_raised (s : State) (e : OpError) (rest : List Answer) :
    drain rest (complete .host (.err e) (s.within s.block [])) = s.finished s.block [] (.err e) rest :=
  drain_complete .host _ (s.within s.block []) rfl rest

/-- Settles O27: the checks are the body's first lines, the pattern's before the slot's. -/
theorem createcharUsageErrors : Obligations.CreatecharUsageErrors := by
  intro s slot pat hq hr
  obtain ⟨ls, hbody⟩ : ∃ ls, createcharBody s.cfg slot pat =
      .requireReady :: .requirePattern pat.length :: .requireSlot slot :: ls := ⟨_, rfl⟩
  have hexec : exec (.createchar slot pat) s = .next (drain s.env
      (proceed .host 0 [] (.requirePattern pat.length :: .requireSlot slot :: ls) (s.within s.block []))) := by
    rw [exec_between (by simp) hq, show bodyOf s.cfg (.createchar slot pat) = _ from hbody]
    exact congrArg _ ((beginOp_ready .host _ hr).trans (beginOp_within ..))
  refine ⟨fun hlen => ?_, fun hlen hpolicy hslot => ?_⟩
  · rw [hexec, proceed_pattern_error .host 0 _ _ hlen, drain_raised]
  · rw [hexec, hlen, proceed_pattern, proceed_slot_error .host 0 _ (s.within s.block []) hpolicy hslot, drain_raised]

end Sys2Proof.Machine

namespace Sys2Proof.Machine

/-! ### A BACKLIGHT that succeeds -/

/-- R119: a BACKLIGHT that returns `Ok(())` has had both writes answered ok, so that both shadows hold the colour bytes. -/
theorem backlight_ok_block {s t : State} {color : Byte} (hq : s.seq = .between) (hr : s.block.ready = true)
    (ht : exec (.backlight color) s = .next t) (hok : t.results = s.results ++ [.ok .unit]) :
    t.block = { s.block with porta := colorPortA s.cfg s.block.porta color, portb := colorPortB s.cfg s.block.portb color } := by
  have hbody : t = drain s.env (proceed .host 0 [] [.colorA color, .colorB color] (s.within s.block [])) := by
    rw [exec_between (by simp) hq] at ht
    exact (Host.Outcome.next.inj ht).symm.trans ((beginOp_ready .host [.colorA color, .colorB color] hr).trans (beginOp_within ..))
  have hended : ∀ r, t.seq ≠ .running r := fun r hrun => by
    rw [← beginOp_within] at hbody
    subst hbody
    simp [(beginOp_results _ s).2 r hrun] at hok
  have hnoError : ∀ {blk txs e rest}, exec (.backlight color) s ≠ .next (s.finished blk txs (.err e) rest) := by
    intro blk txs e rest h
    rw [ht] at h
    rw [Host.Outcome.next.inj h] at hok
    simp [State.finished] at hok
  match he : s.env with
  | [] =>
    rw [he, proceed_colorA] at hbody
    exact absurd (congrArg State.seq hbody) (hended _)
  | [.ok d] =>
    rw [he, proceed_colorA, drain_act_ok .host 0 _ [] s [] rfl, proceed_colorB] at hbody
    exact absurd (congrArg State.seq hbody) (hended _)
  | .error :: rest =>
    obtain ⟨-, -, hfail, -⟩ := backlightWrites s color 0 0 rest hq hr
    exact absurd (hfail he) hnoError
  | .ok d :: .error :: rest =>
    obtain ⟨-, hfail, -⟩ := backlightWrites s color d 0 rest hq hr
    exact absurd (hfail he) hnoError
  | .ok d :: .ok d' :: rest =>
    obtain ⟨hdone, -⟩ := backlightWrites s color d d' rest hq hr
    exact congrArg State.block (Host.Outcome.next.inj (ht.symm.trans (hdone he)))

/-- R82: a colour changes blue alone in port B. -/
theorem colorPortB_other (cfg : Config) (pb color : Byte) : colorPortB cfg pb color &&& ~~~cfg.pinBlue = pb &&& ~~~cfg.pinBlue := by
  unfold colorPortB maskIf
  split
  · rw [or_and_not_self, and_not_idem]
  · rw [show (pb &&& ~~~cfg.pinBlue) ||| 0 = pb &&& ~~~cfg.pinBlue from BitVec.or_zero, and_not_idem]

/-- R124: under the default pins a colour is read back from bits 6 and 7 of port A and bit 0 of port B. -/
theorem shownColor_default (pa pb : Byte) : shownColor Config.default pa pb =
    ~~~(((pa >>> 6) &&& 1) ||| (((pa >>> 7) &&& 1) <<< 1) ||| ((pb &&& 1) <<< 2)) &&& 7 := by
  have hred : ∀ p : Byte, maskIf (anyBit p 0x40) 0x1 = (p >>> 6) &&& 1 := by decide
  have hgreen : ∀ p : Byte, maskIf (anyBit p 0x80) 0x2 = ((p >>> 7) &&& 1) <<< 1 := by decide
  have hblue : ∀ p : Byte, maskIf (anyBit p 0x01) 0x4 = (p &&& 1) <<< 2 := by decide
  exact congrArg (~~~· &&& 7) (congrArg₂ (· ||| ·) (congrArg₂ (· ||| ·) (hred pa) (hgreen pa)) (hblue pb))

/-- Settles O39: both ports hold the colour bytes, which show the colour and keep the other bits. -/
theorem colourRoundTrip : Obligations.ColourRoundTrip := by
  intro s t color hcfg hq hr hcolor ht hok
  have hsmall : ∀ c : Byte, c ≤ 7 → c &&& 7 = c := by decide
  obtain ⟨-, -, hshown⟩ := colourBytes s.block.porta s.block.portb color
  rw [backlight_ok_block hq hr ht hok, hcfg, ← shownColor_default]
  exact ⟨hshown.trans (hsmall color hcolor), colorPortA_other Config.default _ color, colorPortB_other Config.default _ color⟩

end Sys2Proof.Machine

namespace Sys2Proof.Machine

/-! ### What BACKLIGHT, SAMPLE, NAME, TICK and CLOSE leave -/

/-- The operations that neither the LCD's frame nor INIT's and LCDBOOT's covers. -/
theorem other_cases {i : Instr} (hlcd : i.isLcd = false) (hinit : i ≠ .init) (hboot : i ≠ .lcdboot) :
    (∃ x, i = .backlight x) ∨ i = .sample ∨ (∃ m, i = .name m) ∨ i = .tick ∨ i = .close := by
  cases i <;> simp_all [Instr.isLcd]

/-- What the operation `i`, one of these five, leaves of the block it began with. -/
structure OtherFrame (cfg : Config) (i : Instr) (b c : Block) : Prop where
  ddrb : c.ddrb = b.ddrb
  ready : c.ready = b.ready
  porta : c.porta &&& ~~~(cfg.pinRed ||| cfg.pinGreen) = b.porta &&& ~~~(cfg.pinRed ||| cfg.pinGreen)
  portb : c.portb &&& ~~~cfg.pinBlue = b.portb &&& ~~~cfg.pinBlue
  ports : (∀ x, i ≠ .backlight x) → c.porta = b.porta ∧ c.portb = b.portb
  notifier : i ≠ .close → c.notifier = b.notifier
  prevMask : i ≠ .tick → c.prevMask = b.prevMask
  stale : b.stale = true → c.stale = true
  sameStale : (i = .close ∨ ∃ m, i = .name m) → c.stale = b.stale

theorem OtherFrame.refl (cfg : Config) (i : Instr) (b : Block) : OtherFrame cfg i b b :=
  ⟨rfl, rfl, rfl, rfl, fun _ => ⟨rfl, rfl⟩, fun _ => rfl, fun _ => rfl, id, fun _ => rfl⟩

/-- The bus steps of these operations, each of its own operation; BACKLIGHT's bytes keep the bits of `b`'s ports that are no colour's. -/
def otherAct (cfg : Config) (i : Instr) (b : Block) : Act → Prop
  | .writeGpioA v => (∃ x, i = .backlight x) ∧ v &&& ~~~(cfg.pinRed ||| cfg.pinGreen) = b.porta &&& ~~~(cfg.pinRed ||| cfg.pinGreen)
  | .writeGpioB bs => (∃ x, i = .backlight x) ∧ ∃ v, bs = [v] ∧ v &&& ~~~cfg.pinBlue = b.portb &&& ~~~cfg.pinBlue
  | .readButtons => i = .sample
  | .readTick => i = .tick
  | _ => False

/-- The lines of these operations, each of its own operation but for the checks and the returns. -/
def otherLine (i : Instr) : Line → Prop
  | .requireReady => True
  | .tickGate => True
  | .ret _ => True
  | .colorA _ => ∃ x, i = .backlight x
  | .colorB _ => ∃ x, i = .backlight x
  | .sample => i = .sample
  | .tickSample => i = .tick
  | .close => i = .close
  | _ => False

theorem bodyOf_otherLine (cfg : Config) {i : Instr} (hlcd : i.isLcd = false) (hinit : i ≠ .init) (hboot : i ≠ .lcdboot) :
    ∀ l ∈ bodyOf cfg i, otherLine i l := by
  obtain ⟨x, rfl⟩ | rfl | ⟨m, rfl⟩ | rfl | rfl := other_cases hlcd hinit hboot
  · simp [bodyOf, backlightBody, otherLine]
  · simp [bodyOf, sampleBody, otherLine]
  · simp [bodyOf, nameBody, otherLine]
  · simp [bodyOf, tickBody, otherLine]
  · simp [bodyOf, closeBody, otherLine]

/-- R123, R132: NAME and CLOSE make no transaction. -/
theorem otherAct.not_close_or_name {cfg : Config} {i : Instr} {b : Block} {a : Act} (h : otherAct cfg i b a) :
    ¬(i = .close ∨ ∃ m, i = .name m) := by
  cases a
  case writeGpioA => obtain ⟨⟨x, rfl⟩, -⟩ := h; simp
  case writeGpioB => obtain ⟨⟨x, rfl⟩, -⟩ := h; simp
  case readButtons => obtain rfl : i = .sample := h; simp
  case readTick => obtain rfl : i = .tick := h; simp
  all_goals exact h.elim

section
variable {cfg : Config} {i : Instr} {b c : Block}

theorem OtherFrame.setPortA (h : OtherFrame cfg i b c) (hi : ∃ x, i = .backlight x) {v : Byte}
    (hv : v &&& ~~~(cfg.pinRed ||| cfg.pinGreen) = b.porta &&& ~~~(cfg.pinRed ||| cfg.pinGreen)) :
    OtherFrame cfg i b { c with porta := v } :=
  { h with porta := hv, ports := fun hno => let ⟨x, hx⟩ := hi; absurd hx (hno x) }

theorem OtherFrame.setPortB (h : OtherFrame cfg i b c) (hi : ∃ x, i = .backlight x) {v : Byte}
    (hv : v &&& ~~~cfg.pinBlue = b.portb &&& ~~~cfg.pinBlue) : OtherFrame cfg i b { c with portb := v } :=
  { h with portb := hv, ports := fun hno => let ⟨x, hx⟩ := hi; absurd hx (hno x) }

theorem OtherFrame.setPrevMask (h : OtherFrame cfg i b c) (hi : i = .tick) (m : Byte) :
    OtherFrame cfg i b { c with prevMask := m } :=
  { h with prevMask := fun hno => absurd hi hno }

theorem OtherFrame.setNotifier (h : OtherFrame cfg i b c) (hi : i = .close) (x : NotifierState) :
    OtherFrame cfg i b { c with notifier := x } :=
  { h with notifier := fun hno => absurd hi hno }

theorem OtherFrame.setStale (h : OtherFrame cfg i b c) (hi : ¬(i = .close ∨ ∃ m, i = .name m)) :
    OtherFrame cfg i b { c with stale := true } :=
  { h with stale := fun _ => rfl, sameStale := fun hno => absurd hno hi }

end

/-- Every line and bus step of one of these operations keeps its frame. -/
theorem otherFrame_keeps (cfg : Config) (i : Instr) (b : Block) :
    Keeps cfg (fun c _ acts ls => OtherFrame cfg i b c ∧ (∀ a ∈ acts, otherAct cfg i b a) ∧ ∀ l ∈ ls, otherLine i l)
      (fun c _ => OtherFrame cfg i b c) where
  line := by
    rintro c tr l ls ⟨h, -, hlines⟩
    obtain ⟨hl, hls⟩ := List.forall_mem_cons.1 hlines
    cases l
    case requireReady => exact (meets_requireReady _ _ _).2 ⟨fun _ => ⟨h, nofun, hls⟩, fun _ => h⟩
    case tickGate => exact (meets_tickGate _ _ _ _).2 ⟨fun _ => ⟨h, nofun, hls⟩, fun _ => h⟩
    case ret => exact h
    case colorA x => exact ⟨h, List.forall_mem_singleton.2 ⟨hl, (colorPortA_other cfg _ x).trans h.porta⟩, hls⟩
    case colorB x => exact ⟨h, List.forall_mem_singleton.2 ⟨hl, _, rfl, (colorPortB_other cfg _ x).trans h.portb⟩, hls⟩
    case sample => exact ⟨h, List.forall_mem_singleton.2 hl, hls⟩
    case tickSample => exact ⟨h, List.forall_mem_singleton.2 hl, hls⟩
    case close => exact ⟨h.setNotifier hl _, nofun, hls⟩
    all_goals exact hl.elim
  stop := fun ⟨h, _⟩ => h
  act := by
    rintro c tr a as ls d ⟨h, hacts, hls⟩
    obtain ⟨ha, has⟩ := List.forall_mem_cons.1 hacts
    cases a
    case writeGpioA v => obtain ⟨hi, hv⟩ := ha; exact ⟨h.setPortA hi hv, has, hls⟩
    case writeGpioB bs => obtain ⟨hi, v, rfl, hv⟩ := ha; exact ⟨h.setPortB hi hv, has, hls⟩
    case readButtons => exact h
    case readTick => exact h.setPrevMask ha _
    all_goals exact ha.elim
  error := by
    rintro c tr a as ls ⟨h, hacts, -⟩
    exact h.setStale (hacts a List.mem_cons_self).not_close_or_name

/-- Settles O49: the block by the claim above, the rest by what every operation keeps. -/
theorem otherOperationsFrame : Obligations.OtherOperationsFrame := by
  intro i s t hlcd hinit hboot hq ht
  have hframe : OtherFrame s.cfg i s.block t.block :=
    ((otherFrame_keeps s.cfg i s.block).exec (i := i) rfl
      (by rw [expand_eq_self hboot]; exact fun hF => List.forall_mem_singleton.2 ⟨hF, nofun, bodyOf_otherLine s.cfg hlcd hinit hboot⟩)
      ((holds_between hq).2 (.refl _ _ _)) ht).everywhere fun h => h.1
  rw [exec_between hboot hq] at ht
  obtain rfl := Host.Outcome.next.inj ht
  have hk := beginOp_kept (portOf i) (bodyOf s.cfg i) s
  have hother := beginOp_otherResults (portOf i) (bodyOf s.cfg i) s
  have hevents : i ≠ .tick → (beginOp (portOf i) (bodyOf s.cfg i) s).events = s.events := fun hi => by
    have hport : portOf i = .host := by cases i <;> simp_all [portOf]
    rw [hport] at hother ⊢
    exact hother
  have hresults : i = .tick → (beginOp (portOf i) (bodyOf s.cfg i) s).results = s.results := by
    rintro rfl
    exact hother
  exact ⟨hk.cfg, hframe.ddrb, hframe.ready, hframe.porta, hframe.portb, hframe.ports, hframe.notifier, hframe.prevMask, hframe.stale,
    hframe.sameStale, hevents, hresults, hk.queued, hk.input, hk.offset, hk.draws⟩

end Sys2Proof.Machine

namespace Sys2Proof.Machine

/-! ### SAMPLE and NAME -/

/-- A line that returns ends the operation. -/
theorem drain_ret (n : Nat) (v : Value) (ls : List Line) (rest : List Answer) (s : State) (blk : Block) (txs : List Tx) :
    drain rest (proceed .host n [] (.ret v :: ls) (s.within blk txs)) = s.finished blk txs (.ok v) rest :=
  drain_complete .host (.ok v) (s.within blk txs) rfl rest

/-- A bus step answered ok that returns. -/
theorem drain_act_done (n : Nat) (as : List Act) (ls : List Line) {d : Byte} (rest : List Answer) (s : State) {a : Act}
    {blk blk' : Block} (txs : List Tx) {v : Value} (h : a.onOk s.cfg blk d = .done blk' v) :
    drain (.ok d :: rest) (emit .host n a as ls (s.within blk txs)) = s.finished blk' (txs ++ [a.tx]) (.ok v) rest := by
  have hanswer : answer (.ok d) ⟨.host, a, as, ls, n + 1⟩ (emit .host n a as ls (s.within blk txs)) =
      complete .host (.ok v) { emit .host n a as ls (s.within blk txs) with block := blk' } := by
    simp only [answer, emit_cfg, emit_block]
    rw [show a.onOk (s.within blk txs).cfg (s.within blk txs).block d = .done blk' v from h]
  rw [drain_running (emit_seq _ _ _ _ _ _), hanswer, drain_complete _ _ _ rfl]
  simp [State.finished, State.within, emit, complete]

/-- R122: SAMPLE on a ready block, performed up to its read. -/
theorem exec_sample {s : State} (hq : s.seq = .between) (hr : s.block.ready = true) :
    exec .sample s = .next (drain s.env (emit .host 0 .readButtons [] [] (s.within s.block []))) := by
  rw [exec_between (by simp) hq]
  exact congrArg _ ((beginOp_ready .host [.sample] hr).trans (beginOp_within ..))

/-- Settles O41: the body's one bus step returns where it is answered ok. -/
theorem sampleCompletes : Obligations.SampleCompletes := by
  intro s r rest hq hr
  refine ⟨fun he => ?_, fun he => ?_⟩
  · rw [exec_sample hq hr, he, drain_act_done 0 [] [] rest s [] rfl]
    rfl
  · rw [exec_sample hq hr, he, drain_act_error]
    rfl

/-- Settles O42: the body is one line, which returns the name. -/
theorem nameCompletes : Obligations.NameCompletes := by
  intro s m hq
  refine ⟨rfl, ?_⟩
  rw [exec_between (by simp) hq, beginOp_within]
  exact congrArg _ (drain_ret 0 (.name (buttonName m)) [] s.env s s.block [])

end Sys2Proof.Machine

namespace Sys2Proof.Machine

/-! ### TICK and CLOSE -/

section
variable (p : Port) (n : Nat) (ls : List Line) {s : State}

/-- R127: an Armed notifier lets TICK go on. -/
theorem proceed_tickGate_armed (h : s.block.notifier = .armed) :
    proceed p n [] (.tickGate :: ls) s = proceed p n [] ls s := by
  simp [proceed_line, Line.perform, h]

/-- R131: any other notifier ends TICK with no events. -/
theorem proceed_tickGate_notArmed (h : s.block.notifier ≠ .armed) :
    proceed p n [] (.tickGate :: ls) s = complete p (.ok (.events [])) s := by
  simp [proceed_line, Line.perform, h]

end

/-- R127: TICK of an Armed notifier on a ready block goes on to its read. -/
theorem proceed_tickBody_armed (p : Port) (n : Nat) {s : State} (ha : s.block.notifier = .armed) (hr : s.block.ready = true) :
    proceed p n [] tickBody s = emit p n .readTick [] [] s := by
  rw [tickBody, proceed_tickGate_armed p n _ ha, proceed_ready p n _ s hr]
  rfl

/-- TICK between operations, performed from its body. -/
theorem exec_tick {s : State} (hq : s.seq = .between) :
    exec .tick s = .next (drain s.env (proceed .timer 0 [] tickBody (s.within s.block []))) := by
  rw [exec_between (by simp) hq, beginOp_within]
  rfl

/-- R127: TICK's read answered ok stores the sampled mask and returns the events of the change. -/
theorem drain_readTick_ok (s : State) (r : Byte) (rest : List Answer) :
    drain (.ok r :: rest) (emit .timer 0 .readTick [] [] (s.within s.block [])) =
      s.ticked { s.block with prevMask := r &&& s.cfg.buttonMask } [.rr .gpioa]
        (.ok (.events (tickEvents s.cfg s.block.prevMask (r &&& s.cfg.buttonMask)))) rest := by
  rw [drain_running (emit_seq _ _ _ _ _ _)]
  refine (drain_complete .timer _ _ rfl rest).trans ?_
  simp [State.ticked, State.within, emit, complete, Act.tx]

/-- R134, R138: TICK's read answered `error` ends it at the event port. -/
theorem drain_readTick_error (s : State) (rest : List Answer) :
    drain (.error :: rest) (emit .timer 0 .readTick [] [] (s.within s.block [])) =
      s.ticked { s.block with stale := true } [.rr .gpioa] (.err (.transportError (.rr .gpioa) 1)) rest := by
  rw [drain_error .timer 0 _ [] [] rest _ rfl, State.within, List.append_nil]
  rfl

/-- Settles O43: the body's one bus step is the read; where the mask is unchanged, storing it changes nothing. -/
theorem tickWhileArmed : Obligations.TickWhileArmed := by
  intro s r rest hq hr ha cur prev
  rw [exec_tick hq, proceed_tickBody_armed (s := s.within s.block []) .timer 0 ha hr]
  refine ⟨fun he hsame => ?_, fun he hchange => ?_, fun he => ?_⟩
  · have hstored : { s.block with prevMask := cur } = s.block := by rw [hsame]
    rw [he, drain_readTick_ok, hstored, show tickEvents s.cfg prev cur = [] from if_pos hsame]
  · rw [he, drain_readTick_ok, show tickEvents s.cfg prev cur = _ from if_neg hchange]
    rfl
  · rw [he, drain_readTick_error]

/-- Settles O45: the body's first line returns. -/
theorem tickWhileNotArmed : Obligations.TickWhileNotArmed := by
  intro s hq ha
  rw [exec_tick hq, tickBody, proceed_tickGate_notArmed (s := s.within s.block []) _ _ _ ha, drain_complete _ _ _ rfl]
  simp [State.ticked, State.within, complete]

/-- Settles O46: the body's one line closes the notifier, and the body runs off its end. -/
theorem closeCompletes : Obligations.CloseCompletes := by
  intro s hq
  rw [exec_between (by simp) hq, beginOp_within]
  exact congrArg _ (drain_finished 0 s.env s { s.block with notifier := .closed } [])

/-! ### What an event carries -/

/-- The bits that come with a greater number are not none. -/
theorem and_not_ne_zero_of_lt {a b : Byte} (h : a < b) : b &&& ~~~a ≠ 0 := by
  intro hz
  have hle : b.toNat ≤ a.toNat := by
    rw [eq_and_of_and_not_eq_zero hz, BitVec.toNat_and]
    exact Nat.and_le_right
  exact absurd h (BitVec.not_lt.2 hle)

/-- The bits that come are the changed ones that are now set. -/
theorem and_not_eq_and_xor (a b : Byte) : b &&& ~~~a = b &&& (a ^^^ b) := by
  ext i hi
  simp only [BitVec.getElem_and, BitVec.getElem_xor, BitVec.getElem_not]
  cases a[i] <;> cases b[i] <;> rfl

/-- Where one bit changes and the number grows, that bit is the one that comes. -/
theorem and_not_eq_xor {a b : Byte} (hbit : singleBit (a ^^^ b) = true) (h : a < b) : b &&& ~~~a = a ^^^ b := by
  have hany : anyBit b (a ^^^ b) = true := by
    rw [anyBit, ← and_not_eq_and_xor]
    exact bne_iff_ne.2 (and_not_ne_zero_of_lt h)
  calc b &&& ~~~a
    _ = b &&& (a ^^^ b) := and_not_eq_and_xor a b
    _ = maskIf (anyBit b (a ^^^ b)) (a ^^^ b) := (maskIf_anyBit hbit).symm
    _ = a ^^^ b := by rw [hany]; rfl

section
variable {cfg : Config} (prev cur : Byte)

theorem pressPayload_delta (h : cfg.eventPayload = .delta) : pressPayload cfg prev cur = prev ^^^ cur := by
  rw [pressPayload, h]

theorem pressPayload_directional (h : cfg.eventPayload = .directional) : pressPayload cfg prev cur = cur &&& ~~~prev := by
  rw [pressPayload, h]

/-- R129: a release carries what a press of the opposite change carries. -/
theorem releasePayload_eq_pressPayload : releasePayload cfg prev cur = pressPayload cfg cur prev := by
  cases h : cfg.eventPayload with
  | delta => rw [releasePayload, h, pressPayload_delta _ _ h, BitVec.xor_comm]
  | directional => rw [releasePayload, h, pressPayload_directional _ _ h]

variable {prev cur}

theorem pressPayload_ne_zero (hlt : prev < cur) : pressPayload cfg prev cur ≠ 0 := by
  cases h : cfg.eventPayload with
  | delta =>
    rw [pressPayload_delta _ _ h]
    exact fun hz => BitVec.ne_of_lt hlt (BitVec.xor_eq_zero_iff.1 hz)
  | directional =>
    rw [pressPayload_directional _ _ h]
    exact and_not_ne_zero_of_lt hlt

theorem pressPayload_singleBit (hbit : singleBit (prev ^^^ cur) = true) (hlt : prev < cur) :
    pressPayload cfg prev cur = prev ^^^ cur := by
  cases h : cfg.eventPayload with
  | delta => exact pressPayload_delta _ _ h
  | directional => exact (pressPayload_directional _ _ h).trans (and_not_eq_xor hbit hlt)

end

/-- Settles O44: a release is a press of the opposite change, and a greater number has a bit that the smaller one lacks. -/
theorem eventPayloads : Obligations.EventPayloads := by
  intro cfg prev cur
  rw [releasePayload_eq_pressPayload, BitVec.xor_comm prev cur]
  refine ⟨fun h => ⟨?_, pressPayload_delta _ _ h⟩, fun h => ⟨pressPayload_directional _ _ h, pressPayload_directional _ _ h⟩,
    pressPayload_ne_zero, pressPayload_ne_zero, fun hbit hlt => ?_, pressPayload_singleBit⟩
  · rw [pressPayload_delta _ _ h, BitVec.xor_comm]
  · rw [BitVec.xor_comm] at hbit ⊢
    exact pressPayload_singleBit hbit hlt

end Sys2Proof.Machine

namespace Sys2Proof.Machine

/-! ### How an operation of the Host ends

An operation's result is that of a line or of an answered bus step, `Ok(())` where the body runs off its last line, or the TransportError of a
transaction answered `error` (R136, R138). -/

/-- The transactions sent since the trace `tr₀` are `k`, and `x` is the last of them. -/
def LastSent (tr₀ tr : List Tx) (x : Tx) (k : Nat) : Prop := ∃ new, tr = tr₀ ++ new ∧ new.length = k ∧ new.getLast? = some x

/-- Where the line ends a body, it ends it with a result of `O`. -/
def Line.EndsIn (O : OpResult → Prop) (l : Line) : Prop := ∀ cfg b, (l.perform cfg b).Ends O

/-- Where the bus step, answered ok, ends a body, it ends it with a result of `O`. -/
def Act.EndsIn (O : OpResult → Prop) (a : Act) : Prop := ∀ cfg b d, (a.onOk cfg b d).Ends O

/-- How a Host operation begun with the trace `tr₀` and the results `os` stands: it awaits the answer to its last transaction, has ended with a
result of `O`, or has ended in the TransportError of its last transaction. -/
inductive HostRun (O : OpResult → Prop) (tr₀ : List Tx) (os : List OpResult) (t : State) : Prop
  | awaits {r : Running} (hq : t.seq = .running r) (hp : r.port = .host) (hls : ∀ l ∈ r.lines, l.EndsIn O)
      (hsent : LastSent tr₀ t.trace r.act.tx r.emitted) (hres : t.results = os)
  | ended {o : OpResult} (hq : t.seq = .between) (ho : O o) (hres : t.results = os ++ [o])
  | failed {x : Tx} {k : Nat} (hq : t.seq = .between) (hstale : t.block.stale = true) (hsent : LastSent tr₀ t.trace x k)
      (hres : t.results = os ++ [.err (.transportError x k)])

section
variable {O : OpResult → Prop} {tr₀ : List Tx} {os : List OpResult}

theorem complete_hostRun {o : OpResult} (ho : O o) {s : State} (hres : s.results = os) : HostRun O tr₀ os (complete .host o s) :=
  .ended rfl ho (congrArg (· ++ [o]) hres)

theorem emit_hostRun {ls : List Line} (hls : ∀ l ∈ ls, l.EndsIn O) {n : Nat} {s : State} (a : Act) (as : List Act)
    (hsent : ∃ new, s.trace = tr₀ ++ new ∧ new.length = n) (hres : s.results = os) :
    HostRun O tr₀ os (emit .host n a as ls s) := by
  obtain ⟨new, htrace, hlen⟩ := hsent
  exact .awaits rfl rfl hls ⟨new ++ [a.tx], by simp [htrace], by simp [hlen], by simp⟩ hres

variable (hunit : O (.ok .unit))
include hunit

theorem proceed_hostRun : ∀ (ls : List Line) (n : Nat) (acts : List Act) (s : State), (∀ l ∈ ls, l.EndsIn O) →
    (∃ new, s.trace = tr₀ ++ new ∧ new.length = n) → s.results = os → HostRun O tr₀ os (proceed .host n acts ls s) := by
  intro ls
  induction ls with
  | nil =>
    intro n acts s hls hsent hres
    cases acts with
    | nil => exact complete_hostRun hunit hres
    | cons a as => exact emit_hostRun hls a as hsent hres
  | cons l ls ih =>
    intro n acts s hls hsent hres
    cases acts with
    | cons a as => exact emit_hostRun hls a as hsent hres
    | nil =>
      obtain ⟨hl, hls⟩ := List.forall_mem_cons.1 hls
      rw [proceed_line]
      have hends := hl s.cfg s.block
      generalize l.perform s.cfg s.block = c at hends ⊢
      cases c with
      | go b acts => exact ih n acts { s with block := b } hls hsent hres
      | raise b e => exact complete_hostRun hends hres
      | done b v => exact complete_hostRun hends hres

variable (hacts : ∀ a : Act, a.EndsIn O)
include hacts

theorem answer_hostRun (a : Answer) {r : Running} {s : State} (h : HostRun O tr₀ os s) (hq : s.seq = .running r) :
    HostRun O tr₀ os (answer a r s) := by
  cases h with
  | ended hq' => simp [hq] at hq'
  | failed hq' => simp [hq] at hq'
  | @awaits r' hq' hp hls hsent hres =>
    obtain rfl : r = r' := Seq.running.inj (hq.symm.trans hq')
    cases a with
    | error =>
      simp only [answer, hp]
      exact .failed rfl rfl hsent (congrArg (· ++ _) hres)
    | ok d =>
      simp only [answer, hp]
      have hends := hacts r.act s.cfg s.block d
      generalize r.act.onOk s.cfg s.block d = c at hends ⊢
      cases c with
      | go b new =>
        obtain ⟨sent, htrace, hlen, -⟩ := hsent
        exact proceed_hostRun hunit r.lines r.emitted (new ++ r.acts) { s with block := b } hls ⟨sent, htrace, hlen⟩ hres
      | raise b e => exact complete_hostRun hends hres
      | done b v => exact complete_hostRun hends hres

/-- An operation of the Host stands in one of these ways, whatever the answers. -/
theorem beginOp_hostRun {body : List Line} (hbody : ∀ l ∈ body, l.EndsIn O) (s : State) :
    HostRun O s.trace s.results (beginOp .host body s) := by
  have henv : ∀ (t : State) (e : List Answer), HostRun O s.trace s.results t → HostRun O s.trace s.results { t with env := e } := by
    rintro t e (⟨hq, hp, hls, hsent, hres⟩ | ⟨hq, ho, hres⟩ | ⟨hq, hstale, hsent, hres⟩)
    · exact .awaits hq hp hls hsent hres
    · exact .ended hq ho hres
    · exact .failed hq hstale hsent hres
  exact drain_induction (fun a _ _ h hq => answer_hostRun hunit hacts a h hq) henv s.env _
    (proceed_hostRun hunit body 0 [] { s with env := [] } hbody ⟨[], by simp⟩ rfl)

end

theorem portOf_host {i : Instr} (h : i ≠ .tick) : portOf i = .host := by
  cases i
  case tick => exact absurd rfl h
  all_goals rfl

/-! ### TransportError -/

/-- The result is no TransportError. -/
def OpResult.NoTransportError (o : OpResult) : Prop := ∀ x k, o ≠ .err (.transportError x k)

/-- A result that records no index is no TransportError. -/
theorem OpResult.noTransportError_of_after {o : OpResult} (h : ∀ n, o.after n = o) : o.NoTransportError := by
  rintro x k rfl
  simpa using h 1

theorem Cont.Ends.imp {P Q : OpResult → Prop} (h : ∀ o, P o → Q o) {c : Cont} (hc : c.Ends P) : c.Ends Q := by
  cases c with
  | go b acts => trivial
  | raise b e => exact h _ hc
  | done b v => exact h _ hc

theorem Line.endsIn_noTransportError (l : Line) : l.EndsIn OpResult.NoTransportError := fun cfg b =>
  (perform_ends cfg b l).imp fun _ ho => OpResult.noTransportError_of_after ho.1

theorem Act.endsIn_noTransportError (a : Act) : a.EndsIn OpResult.NoTransportError := fun cfg b d =>
  (onOk_ends cfg b d a).imp fun _ ho => OpResult.noTransportError_of_after ho.1

/-- R138: a Host operation that awaits an answer ends where `error` is given to it later, with the answers after that left. -/
theorem beginOp_later_error {body : List Line} {s : State} {r : Running} (hq : (beginOp .host body s).seq = .running r)
    (hp : r.port = .host) (rest : List Answer) :
    beginOp .host body (s.giveAnswers (.error :: rest)) = { beginOp .host body s with
      block := { (beginOp .host body s).block with stale := true }, seq := .between, env := rest
      results := (beginOp .host body s).results ++ [.err (.transportError r.act.tx r.emitted)] } := by
  have hlater : beginOp .host body (s.giveAnswers (.error :: rest)) = drain (.error :: rest) (beginOp .host body s) :=
    drain_append s.env _ _ r hq
  have henv : (beginOp .host body s).env = [] :=
    drain_running_env s.env _ r (proceed_kept .host body 0 [] { s with env := [] }).2 hq
  rw [hlater, drain_running hq]
  generalize beginOp .host body s = t at henv ⊢
  simp only [answer, hp]
  exact drain_complete .host _ { t with block := { t.block with stale := true } } henv rest

/-- Settles O51: only an awaited transaction answered `error` ends an operation in TransportError, and it is the last one sent. -/
theorem transportErrorIsPrecise : Obligations.TransportErrorIsPrecise := by
  intro i s t hboot htick hq ht
  rw [exec_between hboot hq, portOf_host htick] at ht
  have hrun := beginOp_hostRun (O := OpResult.NoTransportError) nofun Act.endsIn_noTransportError
    (fun l _ => l.endsIn_noTransportError) (body := bodyOf s.cfg i) s
  have hlater := fun r => beginOp_later_error (body := bodyOf s.cfg i) (s := s) (r := r)
  rw [Host.Outcome.next.inj ht] at hrun hlater
  refine ⟨fun x k hxk => ?_, fun r rest hr => ?_⟩
  · cases hrun with
    | awaits _ _ _ _ hres => simp [hres] at hxk
    | ended _ ho hres => exact absurd (by simpa using hres.symm.trans hxk) (ho x k)
    | failed hqt hstale hsent hres =>
      obtain ⟨rfl, rfl⟩ : _ = x ∧ _ = k := by simpa using hres.symm.trans hxk
      exact ⟨hstale, hqt, hsent⟩
  · cases hrun with
    | ended hqt => simp [hqt] at hr
    | failed hqt => simp [hqt] at hr
    | @awaits r' hqt hp _ hsent _ =>
      obtain rfl : r = r' := Seq.running.inj (hr.symm.trans hqt)
      obtain ⟨new, htrace, hlen, -⟩ := hsent
      have hcount : t.trace.length - s.trace.length = r.emitted := by simp [htrace, hlen]
      rw [exec_between (s := s.giveAnswers _) hboot hq, portOf_host htick, hcount]
      exact congrArg _ (hlater r hr hp rest)

end Sys2Proof.Machine

namespace Sys2Proof.Machine

/-! ### Before INIT -/

/-- R143: the body of an operation that needs a ready block begins with the check. -/
theorem bodyOf_needsReady (cfg : Config) {i : Instr} (h : i.needsReady = true) :
    ∃ ls, bodyOf cfg i = .requireReady :: ls ∨ bodyOf cfg i = .prologue :: ls := by
  cases i
  case createchar | text | textc | backlight | sample => exact ⟨_, .inl rfl⟩
  case instr | data | instrs | datas | clear | home => exact ⟨_, .inr rfl⟩
  all_goals simp [Instr.needsReady] at h

/-- R143, R145: the check is made before anything else. -/
theorem exec_notReady {s : State} {i : Instr} (hq : s.seq = .between) (hr : s.block.ready = false) (hi : i.needsReady = true) :
    exec i s = .next (s.finished s.block [] (.err .notInitialized) s.env) := by
  have hboot : i ≠ .lcdboot := by rintro rfl; simp [Instr.needsReady] at hi
  have htick : i ≠ .tick := by rintro rfl; simp [Instr.needsReady] at hi
  have hcheck : proceed .host 0 [] (bodyOf s.cfg i) (s.within s.block []) =
      complete .host (.err .notInitialized) (s.within s.block []) := by
    obtain ⟨ls, hls | hls⟩ := bodyOf_needsReady s.cfg hi
    · rw [hls, proceed_notReady .host 0 ls (s.within s.block []) hr]
    · rw [hls, proceed_prologue_notReady .host 0 ls (s.within s.block []) hr]
  rw [exec_between hboot hq, portOf_host htick, beginOp_within, hcheck, drain_raised]

/-- R131, R145: a TICK of an Armed notifier comes to the check. -/
theorem exec_tick_armed_notReady {s : State} (hq : s.seq = .between) (hr : s.block.ready = false) (ha : s.block.notifier = .armed) :
    exec .tick s = .next (s.ticked s.block [] (.err .notInitialized) s.env) := by
  rw [exec_tick hq, tickBody, proceed_tickGate_armed (s := s.within s.block []) .timer 0 _ ha,
    proceed_notReady .timer 0 _ (s.within s.block []) hr, drain_complete _ _ _ rfl]
  simp [State.ticked, State.within, complete]

/-- Of the bus steps none makes the check. -/
theorem Act.endsIn_initialized (a : Act) : a.EndsIn (· ≠ .err .notInitialized) := by
  intro cfg b d
  cases a
  case pollStrobeRest =>
    simp only [Act.onOk, pollDecide]
    split
    · split
      · exact nofun
      · trivial
    · trivial
  case readButtons => exact nofun
  case readTick => exact nofun
  all_goals trivial

/-- R143: INIT, CLOSE and NAME have no line that makes the check. -/
theorem bodyOf_endsIn_initialized (cfg : Config) {i : Instr} (h : i = .init ∨ i = .close ∨ ∃ m, i = .name m) :
    ∀ l ∈ bodyOf cfg i, l.EndsIn (· ≠ .err .notInitialized) := by
  obtain rfl | rfl | ⟨m, rfl⟩ := h
  · simp [bodyOf, initBody, Line.EndsIn, Line.perform, Cont.Ends]
  · simp [bodyOf, closeBody, Line.EndsIn, Line.perform, Cont.Ends]
  · simp [bodyOf, nameBody, Line.EndsIn, Line.perform, Cont.Ends]

/-- Settles O10: the check is the first line of every body that has it, but for TICK's gate; INIT, CLOSE and NAME have none. -/
theorem notInitializedBeforeInit : Obligations.NotInitializedBeforeInit := by
  intro s hq hr
  refine ⟨fun i hi => exec_notReady hq hr hi, exec_tick_armed_notReady hq hr, tickWhileNotArmed s hq, fun i t hi ht hres => ?_⟩
  have hboot : i ≠ .lcdboot := by rintro rfl; simp at hi
  have htick : i ≠ .tick := by rintro rfl; simp at hi
  rw [exec_between hboot hq, portOf_host htick] at ht
  have hrun := beginOp_hostRun (by simp) Act.endsIn_initialized (bodyOf_endsIn_initialized s.cfg hi) s
  rw [Host.Outcome.next.inj ht] at hrun
  cases hrun with
  | awaits _ _ _ _ hsame => simp [hsame] at hres
  | ended _ ho hended => exact ho (by simpa using hended.symm.trans hres)
  | failed _ _ _ hfailed => simpa using hfailed.symm.trans hres

end Sys2Proof.Machine

namespace Sys2Proof.Machine

/-! ### Construction -/

section
variable {a : CtorArgs} (env : List Answer)

theorem construct_badParam {p : ConfigParam} (h : badParam a = some p) : construct a env = .fault (.configurationError p) := by
  rw [construct, h]

theorem construct_illFormed {c : ConfigCheck} (h : badParam a = none) (hc : a.config.firstFailure = some c) :
    construct a env = .refused (.illFormedConfig c) := by
  simp only [construct, h, hc]

theorem construct_wf (h : badParam a = none) (hwf : a.config.wf = true) :
    construct a env = exec .init { State.created a.config with env := env } := by
  simp only [construct, h, Option.isNone_iff_eq_none.1 hwf]
  rfl

end

section
variable {a : CtorArgs} (hbus : a.busId ≠ none)
include hbus

theorem badParam_devAddr (haddr : 128 ≤ a.devAddr) : badParam a = some .devAddr := by
  rw [badParam, if_neg hbus, if_pos haddr]

theorem badParam_interval (haddr : a.devAddr < 128) (hint : a.interval < 0) : badParam a = some .interval := by
  rw [badParam, if_neg hbus, if_neg (Nat.not_le.2 haddr), if_pos hint]

theorem badParam_none (haddr : a.devAddr < 128) (hint : 0 ≤ a.interval) : badParam a = none := by
  rw [badParam, if_neg hbus, if_neg (Nat.not_le.2 haddr), if_neg (Int.not_lt.2 hint)]

end

theorem exists_firstFailure {cfg : Config} (h : cfg.wf = false) : ∃ c, cfg.firstFailure = some c := by
  cases hc : cfg.firstFailure with
  | none => simp [Config.wf, hc] at h
  | some c => exact ⟨c, rfl⟩

/-- Settles O14: the arguments are checked in order, and then the configuration they give. -/
theorem configurationErrors : Obligations.ConfigurationErrors := by
  intro a env
  refine ⟨fun hbus => construct_badParam env (if_pos hbus), fun hbus haddr => construct_badParam env (badParam_devAddr hbus haddr),
    fun hbus haddr hint => construct_badParam env (badParam_interval hbus haddr hint),
    fun hbus haddr hint hwf => construct_wf env (badParam_none hbus haddr hint) hwf, fun hbus haddr hint hwf => ?_⟩
  obtain ⟨c, hc⟩ := exists_firstFailure hwf
  exact ⟨c, construct_illFormed env (badParam_none hbus haddr hint) hc⟩

end Sys2Proof.Machine
